-- ==== Sys2Proof/Word.lean ====
section
/-! DEFINITION. The word types of wyan/cpu (spec/00_scope.md R7, R8, R9): every register, memory cell and
16-bit immediate is one unsigned 16-bit Word; a nibble is one half of the params byte. -/

namespace Sys2Proof

/-- R7, R9: "Word: 16-bit unsigned value", the unit of registers, memory and addresses. -/
abbrev Word := BitVec 16

/-- R81: the opcode and the params field are one byte each of the instruction word. -/
abbrev Byte := BitVec 8

/-- R81: one 4-bit params field when it holds an immediate. -/
abbrev Nibble := BitVec 4

/-- R20: a register index, 0 to 15. -/
abbrev Reg := Fin 16

/-- R86, R201: a condition code, 0 to 15. -/
abbrev CondCode := Fin 16

end Sys2Proof
end

