-- ==== Sys2Proof/Syntax.lean ====
section
/-! DEFINITION. The instructions, one constructor per row of spec/opcode_table.json (R88). Operand roles are
those of R82; ignored fields (R87) are no operand. -/

namespace Sys2Proof

/-- R88: the 19 opcodes of the final revision, with the operands R82 gives each. -/
inductive Instr
  /-- 0xFF -/
  | nop
  /-- 0xF8 -/
  | halt
  /-- 0x00: dst ← M[r addr] -/
  | loadInd (dst addr : Reg)
  /-- 0x01: dst ← imm -/
  | loadImm4 (dst : Reg) (imm : Nibble)
  /-- 0x02: dst ← src -/
  | loadReg (dst src : Reg)
  /-- 0x03: dst ← imm16 -/
  | loadImm16 (dst : Reg) (imm16 : Word)
  /-- 0x10: M[r addr] ← r src -/
  | storeIndReg (addr src : Reg)
  /-- 0x11: M[r addr] ← imm -/
  | storeIndImm4 (imm : Nibble) (addr : Reg)
  /-- 0x20 -/
  | add (acc reg : Reg)
  /-- 0x21 -/
  | adc (acc reg : Reg)
  /-- 0x30 -/
  | lnot (reg : Reg)
  /-- 0x31 -/
  | land (acc reg : Reg)
  /-- 0x32 -/
  | lor (acc reg : Reg)
  /-- 0x33 -/
  | lxor (acc reg : Reg)
  /-- 0x40 -/
  | cmpReg (acc reg : Reg)
  /-- 0x41 -/
  | cmpImm4 (acc : Reg) (imm : Nibble)
  /-- 0x42 -/
  | cmpImm16 (acc : Reg) (imm16 : Word)
  /-- 0x50: the params byte read as a signed number, −128 to +127 (R85; the bound is WellFormed's) -/
  | jmpr (offset : Int)
  /-- 0x51 -/
  | jmp (cond : CondCode) (target : Word)
  deriving DecidableEq, Repr

end Sys2Proof
end

