-- ==== Sys2Proof/WellFormed.lean ====
section
/-! DEFINITION. Which terms of Instr stand for an instruction. Registers, nibbles, condition codes and 16-bit
immediates are bounded by their types; the one operand that is not is JMPR's offset (R85). -/

namespace Sys2Proof

/-- R85: "in the range −128 to +127 words". -/
def offsetInRange (offset : Int) : Bool := decide (-128 ≤ offset) && decide (offset ≤ 127)

/-- The instruction has an encoding. -/
def Instr.wellFormed : Instr → Bool
  | .nop => true
  | .halt => true
  | .loadInd _ _ => true
  | .loadImm4 _ _ => true
  | .loadReg _ _ => true
  | .loadImm16 _ _ => true
  | .storeIndReg _ _ => true
  | .storeIndImm4 _ _ => true
  | .add _ _ => true
  | .adc _ _ => true
  | .lnot _ => true
  | .land _ _ => true
  | .lor _ _ => true
  | .lxor _ _ => true
  | .cmpReg _ _ => true
  | .cmpImm4 _ _ => true
  | .cmpImm16 _ _ => true
  | .jmpr offset => offsetInRange offset
  | .jmp _ _ => true

end Sys2Proof
end

