-- ==== Sys2Proof/Decode.lean ====
section
/-! DEFINITION. The decoder and the encoder (spec/30_encoding.md). The decoder reads whole words, because
memory is word-addressed (R52); it is total and rejects by name. -/

namespace Sys2Proof

/-! ## Fields of the instruction word (R81) -/

/-- R81: `opcode = IR[15:8]`. -/
def opcodeField (w : Word) : Byte := w.extractLsb' 8 8

/-- R81: `params = IR[7:0]`. -/
def paramsField (w : Word) : Byte := w.extractLsb' 0 8

/-- R81: `H = IR[7:4]`. -/
def highNibble (w : Word) : Nibble := w.extractLsb' 4 4

/-- R81: `L = IR[3:0]`. -/
def lowNibble (w : Word) : Nibble := w.extractLsb' 0 4

/-- R20: the register a nibble names. -/
def regOf (n : Nibble) : Reg := n.toFin

/-! ## The opcode map (R88) -/

/-- The 19 opcodes, before any operand is looked at: the opcode alone selects the instruction and its
length (R80, R88). -/
inductive Op
  | nop | halt | loadInd | loadImm4 | loadReg | loadImm16 | storeIndReg | storeIndImm4 | add | adc
  | lnot | land | lor | lxor | cmpReg | cmpImm4 | cmpImm16 | jmpr | jmp
  deriving DecidableEq, Repr

/-- R88: the opcode a byte selects; `none` for the 237 illegal bytes of R89. -/
def Op.ofByte (b : Byte) : Option Op :=
  match b with
  | 0xFF#8 => some .nop
  | 0xF8#8 => some .halt
  | 0x00#8 => some .loadInd
  | 0x01#8 => some .loadImm4
  | 0x02#8 => some .loadReg
  | 0x03#8 => some .loadImm16
  | 0x10#8 => some .storeIndReg
  | 0x11#8 => some .storeIndImm4
  | 0x20#8 => some .add
  | 0x21#8 => some .adc
  | 0x30#8 => some .lnot
  | 0x31#8 => some .land
  | 0x32#8 => some .lor
  | 0x33#8 => some .lxor
  | 0x40#8 => some .cmpReg
  | 0x41#8 => some .cmpImm4
  | 0x42#8 => some .cmpImm16
  | 0x50#8 => some .jmpr
  | 0x51#8 => some .jmp
  | _ => none

/-- R80: opcodes 0x03, 0x42 and 0x51 take a second word; every other opcode is one word. -/
def Op.twoWords : Op → Bool
  | .loadImm16 | .cmpImm16 | .jmp => true
  | .nop | .halt | .loadInd | .loadImm4 | .loadReg | .storeIndReg | .storeIndImm4 | .add | .adc
  | .lnot | .land | .lor | .lxor | .cmpReg | .cmpImm4 | .jmpr => false

/-- R82: the instruction an opcode makes of the instruction word and, for a two-word opcode, of the word
after it. A field that is ignored there is not read (R87). -/
def Instr.ofFields (op : Op) (w imm16 : Word) : Instr :=
  match op with
  | .nop => .nop
  | .halt => .halt
  | .loadInd => .loadInd (regOf (highNibble w)) (regOf (lowNibble w))
  | .loadImm4 => .loadImm4 (regOf (highNibble w)) (lowNibble w)
  | .loadReg => .loadReg (regOf (highNibble w)) (regOf (lowNibble w))
  | .loadImm16 => .loadImm16 (regOf (highNibble w)) imm16
  | .storeIndReg => .storeIndReg (regOf (highNibble w)) (regOf (lowNibble w))
  | .storeIndImm4 => .storeIndImm4 (highNibble w) (regOf (lowNibble w))
  | .add => .add (regOf (highNibble w)) (regOf (lowNibble w))
  | .adc => .adc (regOf (highNibble w)) (regOf (lowNibble w))
  | .lnot => .lnot (regOf (lowNibble w))
  | .land => .land (regOf (highNibble w)) (regOf (lowNibble w))
  | .lor => .lor (regOf (highNibble w)) (regOf (lowNibble w))
  | .lxor => .lxor (regOf (highNibble w)) (regOf (lowNibble w))
  | .cmpReg => .cmpReg (regOf (highNibble w)) (regOf (lowNibble w))
  | .cmpImm4 => .cmpImm4 (regOf (highNibble w)) (lowNibble w)
  | .cmpImm16 => .cmpImm16 (regOf (highNibble w)) imm16
  | .jmpr => .jmpr (paramsField w).toInt
  | .jmp => .jmp (lowNibble w).toFin imm16

/-! ## The decoder -/

/-- Why a list of words starts with no instruction. -/
inductive DecodeError
  /-- there is no word to decode -/
  | noInstructionWord
  /-- R89: the opcode byte is not one of the 19 -/
  | illegalOpcode (opcode : Byte)
  /-- R80: a two-word opcode, and no word follows it -/
  | noOperandWord
  deriving DecidableEq, Repr

/-- R80, R88, R89: the instruction at the head of a list of words, and the words after it. The
illegal-opcode test comes before the operand word is looked for (R89, decision D18). -/
def decode (ws : List Word) : Except DecodeError (Instr × List Word) :=
  match ws with
  | [] => .error .noInstructionWord
  | w :: rest =>
    match Op.ofByte (opcodeField w) with
    | none => .error (.illegalOpcode (opcodeField w))
    | some op =>
      if op.twoWords then
        match rest with
        | [] => .error .noOperandWord
        | imm16 :: rest' => .ok (Instr.ofFields op w imm16, rest')
      else .ok (Instr.ofFields op w 0#16, rest)

/-! ## The encoder -/

/-- R81: the instruction word made of its three fields. -/
def instrWord (opcode : Byte) (h l : Nibble) : Word := opcode ++ h ++ l

/-- R20: the nibble that names a register. -/
def regNibble (r : Reg) : Nibble := BitVec.ofFin r

/-- R91: the words of an instruction; ignored fields assemble as 0. -/
def encode : Instr → List Word
  | .nop => [instrWord 0xFF 0 0]
  | .halt => [instrWord 0xF8 0 0]
  | .loadInd dst addr => [instrWord 0x00 (regNibble dst) (regNibble addr)]
  | .loadImm4 dst imm => [instrWord 0x01 (regNibble dst) imm]
  | .loadReg dst src => [instrWord 0x02 (regNibble dst) (regNibble src)]
  | .loadImm16 dst imm16 => [instrWord 0x03 (regNibble dst) 0, imm16]
  | .storeIndReg addr src => [instrWord 0x10 (regNibble addr) (regNibble src)]
  | .storeIndImm4 imm addr => [instrWord 0x11 imm (regNibble addr)]
  | .add acc reg => [instrWord 0x20 (regNibble acc) (regNibble reg)]
  | .adc acc reg => [instrWord 0x21 (regNibble acc) (regNibble reg)]
  | .lnot reg => [instrWord 0x30 0 (regNibble reg)]
  | .land acc reg => [instrWord 0x31 (regNibble acc) (regNibble reg)]
  | .lor acc reg => [instrWord 0x32 (regNibble acc) (regNibble reg)]
  | .lxor acc reg => [instrWord 0x33 (regNibble acc) (regNibble reg)]
  | .cmpReg acc reg => [instrWord 0x40 (regNibble acc) (regNibble reg)]
  | .cmpImm4 acc imm => [instrWord 0x41 (regNibble acc) imm]
  | .cmpImm16 acc imm16 => [instrWord 0x42 (regNibble acc) 0, imm16]
  | .jmpr offset => [(0x50#8 ++ BitVec.ofInt 8 offset : BitVec (8 + 8))]
  | .jmp cond target => [instrWord 0x51 0 (BitVec.ofFin cond), target]

/-- The opcode of an instruction. -/
def Instr.op : Instr → Op
  | .nop => .nop
  | .halt => .halt
  | .loadInd _ _ => .loadInd
  | .loadImm4 _ _ => .loadImm4
  | .loadReg _ _ => .loadReg
  | .loadImm16 _ _ => .loadImm16
  | .storeIndReg _ _ => .storeIndReg
  | .storeIndImm4 _ _ => .storeIndImm4
  | .add _ _ => .add
  | .adc _ _ => .adc
  | .lnot _ => .lnot
  | .land _ _ => .land
  | .lor _ _ => .lor
  | .lxor _ _ => .lxor
  | .cmpReg _ _ => .cmpReg
  | .cmpImm4 _ _ => .cmpImm4
  | .cmpImm16 _ _ => .cmpImm16
  | .jmpr _ => .jmpr
  | .jmp _ _ => .jmp

/-- R80: the number of words of an instruction. -/
def Instr.words (i : Instr) : Nat := if i.op.twoWords then 2 else 1

/-! ## The opcode table's numbering of bits -/

/-- The first `nbits` bits of `w`, as the two words they fill: bits 15..0 are the first word, bits 31..16 the
second; every bit above is 0. -/
def tableWords (nbits w : Nat) : Word × Word :=
  let v := w % 2 ^ nbits
  (BitVec.ofNat 16 v, BitVec.ofNat 16 (v / 65536))

/-- The instruction the decoder reads from a word numbered as spec/opcode_table.json numbers it. -/
def decodeTableWord (nbits w : Nat) : Option Instr :=
  match decode [(tableWords nbits w).1, (tableWords nbits w).2] with
  | .ok (i, _) => some i
  | .error _ => none

end Sys2Proof
end

