-- ==== Sys2Proof/Config.lean ====
section
/-! DEFINITION. The implementation parameters of spec/00_scope.md R7: MEM_WORDS, COND_TABLE,
SUB_OVERFLOW_RULE and ADC_RULE. "A model takes each parameter as an argument": they are one field of State
(notes/assumptions/4.md), so a statement over all states holds for every value of them. INIT_MEM, the fifth
parameter, is the memory a machine is constructed with (Machine/Interface.lean). -/

namespace Sys2Proof

/-- R201: the fifteen condition tests that have a name. -/
inductive Cond
  /-- unconditional (the name AL is the spec's own, R91) -/
  | al
  /-- ZERO -/
  | eq
  /-- CARRY set: below, unsigned -/
  | b
  /-- CARRY or ZERO -/
  | be
  /-- NEG xor OVERFLOW: "signed less" -/
  | l
  /-- L or ZERO -/
  | le
  /-- NEGATIVE -/
  | n
  /-- OVERFLOW -/
  | o
  /-- not O -/
  | no
  /-- not N -/
  | p
  /-- not LE -/
  | g
  /-- not L -/
  | ge
  /-- not BE -/
  | a
  /-- not B -/
  | ae
  /-- not EQ -/
  | neq
  deriving DecidableEq, Repr

/-- R7, R201: COND_TABLE for the codes the source leaves open, 2 to 15; `none` is a code with no test (R202).
Codes 0 and 1 are fixed by the source and are no entry of the parameter. -/
structure CondTable where
  code2  : Option Cond
  code3  : Option Cond
  code4  : Option Cond
  code5  : Option Cond
  code6  : Option Cond
  code7  : Option Cond
  code8  : Option Cond
  code9  : Option Cond
  code10 : Option Cond
  code11 : Option Cond
  code12 : Option Cond
  code13 : Option Cond
  code14 : Option Cond
  code15 : Option Cond
  deriving DecidableEq, Repr

/-- R124: the two readings of OVERFLOW after CMP. -/
inductive SubOverflowRule
  | formulaAsWritten
  | trueSigned
  deriving DecidableEq, Repr

/-- R171: the two readings of ADC's CARRY and OVERFLOW. -/
inductive AdcRule
  | incrementThenAdd
  | fullSum
  deriving DecidableEq, Repr

/-- R7: the parameters of one machine, fixed at construction and changed by no operation. -/
structure Config where
  /-- MEM_WORDS, the capacity N of the word memory -/
  memWords : Nat
  /-- COND_TABLE -/
  condTable : CondTable
  /-- SUB_OVERFLOW_RULE -/
  subOverflowRule : SubOverflowRule
  /-- ADC_RULE -/
  adcRule : AdcRule
  deriving DecidableEq, Repr

/-- R7, R50: 1 ≤ N ≤ 65536. -/
abbrev Config.wf (c : Config) : Prop := 1 ≤ c.memWords ∧ c.memWords ≤ 65536

end Sys2Proof
end

