-- ==== Sys2Proof/Machine/Defaults.lean ====
section
/-! DEFINITION. The default value of each parameter of R7: the values Machine.State.reset is given. -/

namespace Sys2Proof

/-- R201 (decision D16): the default COND_TABLE for codes 2 to 15; 0xF has no test. -/
def CondTable.specDefault : CondTable where
  code2  := some .b
  code3  := some .be
  code4  := some .l
  code5  := some .le
  code6  := some .n
  code7  := some .o
  code8  := some .no
  code9  := some .p
  code10 := some .g
  code11 := some .ge
  code12 := some .a
  code13 := some .ae
  code14 := some .neq
  code15 := none

/-- R7 (decisions D2, D13, D15, D16): the default of every parameter. -/
def Config.specDefault : Config where
  memWords := 65536
  condTable := CondTable.specDefault
  subOverflowRule := .formulaAsWritten
  adcRule := .incrementThenAdd

end Sys2Proof
end

