-- ==== Sys2Proof/Machine/State.lean ====
section
/-! DEFINITION. The state of the block (spec/10_state.md R20 to R35), the reasons a step can stop, and the
state right after reset. -/

namespace Sys2Proof.Machine

/-- R50, R52: one word of memory at a word address. The access unit is the word, so a cell is a word, not a
byte (notes/assumptions/1.md). -/
abbrev Cell := Nat × Word

/-- R50: the word memory, as the cells that differ from what an unlisted address reads as, addresses
strictly rising (`Memory.wf`, Machine/Ops.lean). -/
abbrev Memory := List Cell

/-- R31, R231: FAULT_CAUSE. -/
inductive FaultCause
  | none
  | illegalOpcode
  | addressOutOfRange
  deriving DecidableEq, Repr

/-- R230: the two traps. They are taken: the block goes on to the state that R233 gives. -/
inductive Trap
  | illegalOpcode
  | addressOutOfRange
  deriving DecidableEq, Repr

/-- The reasons the model stops with a fault: there is none. Every trap of the spec leads to a next state (R233), and
every 16-bit address either exists or traps (R55), so no step of this machine faults. -/
inductive Fault
  deriving DecidableEq, Repr

/-- The reasons a step has no meaning. -/
inductive Refusal
  /-- raised by Machine.exec for an instruction with no meaning yet (no arm does so now); safe -/
  | notModelled (mnemonic : String)
  /-- raised by Machine.runOnce for a `run_once` before the first `reset`: R263, "A model gives no meaning to
  a `run_once` before the first `reset` and refuses it"; safe -/
  | runBeforeReset
  deriving DecidableEq, Repr

/-- R20 to R35: all the state of the block, the word memory it owns, and its parameters. -/
structure State where
  /-- R20: r0 to r15 -/
  regs : Vector Word 16
  /-- R22: PC -/
  pc : Word
  /-- R24: FLAGS (0 Z, 1 N, 2 V, 3 C, 7 BRANCH, 8 HALT, 15 INTERRUPT) -/
  flags : Word
  /-- R29: SP, reserved -/
  sp : Word
  /-- R29: SPX, reserved -/
  spx : Word
  /-- R30: IR -/
  ir : Word
  /-- R31: FAULT_CAUSE -/
  faultCause : FaultCause
  /-- R31: FAULT_ADDR -/
  faultAddr : Word
  /-- R50: the word memory -/
  mem : Memory
  /-- R7, R34: the parameters, the memory capacity N among them; no operation writes them -/
  cfg : Config
  /-- R35, R263: whether `reset` has been called since construction (the model's own field,
  notes/assumptions/5.md) -/
  resetDone : Bool
  deriving DecidableEq, Repr

/-- What one step or one instruction answers. -/
abbrev Answer := Host.Outcome State Fault Refusal

/-- R34, R260: right after `reset`, on a machine with the default parameters and a memory that lists nothing.
IR (R30) and the memory contents (R35) are the model's choice: notes/assumptions/2.md and 3.md. -/
def State.reset : State where
  regs := Vector.replicate 16 0x0000#16
  pc := 0x0100#16
  flags := 0x0000#16
  sp := 0x0000#16
  spx := 0x0000#16
  ir := 0x0000#16
  faultCause := .none
  faultAddr := 0x0000#16
  mem := []
  cfg := Config.specDefault
  resetDone := true

end Sys2Proof.Machine
end

