-- ==== Sys2Proof/Machine/Flags.lean ====
section
/-! DEFINITION. FLAGS and the flag computer (R24, R28, R120 to R125), as functions on words. -/

namespace Sys2Proof.Machine

/-! ## The bits of FLAGS (R24) -/

/-- R120: the mask of ZERO and NEGATIVE. -/
def maskZN : Word := 0x0003#16

/-- R24: FLAGS_COND = ZERO|NEGATIVE|OVERFLOW|CARRY. -/
def maskCond : Word := 0x000F#16

/-- R24: the HALT bit. -/
def maskHalt : Word := 0x0100#16

/-- R24: ZERO is bit 0. -/
def zeroBit (flags : Word) : Bool := flags.getLsbD 0

/-- R24: NEGATIVE is bit 1. -/
def negativeBit (flags : Word) : Bool := flags.getLsbD 1

/-- R24: OVERFLOW is bit 2. -/
def overflowBit (flags : Word) : Bool := flags.getLsbD 2

/-- R24: CARRY is bit 3. -/
def carryBit (flags : Word) : Bool := flags.getLsbD 3

/-- R24: HALT is bit 8. -/
def haltBit (flags : Word) : Bool := flags.getLsbD 8

/-- R24: a word with the four condition flags at their bits. -/
def packCond (z n v c : Bool) : Word :=
  (if z then 0x0001#16 else 0#16) ||| (if n then 0x0002#16 else 0#16)
    ||| (if v then 0x0004#16 else 0#16) ||| (if c then 0x0008#16 else 0#16)

/-- R28: `FLAGS <- (FLAGS & ~M) | (new & M)`. -/
def writeFlags (mask new flags : Word) : Word := (flags &&& ~~~mask) ||| (new &&& mask)

/-! ## The flag computer -/

/-- R120: `bool(r = 0)`. -/
def zeroOf (r : Word) : Bool := decide (r = 0#16)

/-- R120: `r[15]`. -/
def negativeOf (r : Word) : Bool := r.getLsbD 15

/-- R122: `bool(wide > 0xFFFF)`, on the exact unsigned sum. -/
def carryOfSum (wide : Nat) : Bool := decide (wide > 0xFFFF)

/-- R122: the formal OVERFLOW formula. -/
def overflowFormula (op1 op2 r : Word) : Bool :=
  decide (((~~~(op1 ^^^ op2)) &&& (op1 ^^^ r) &&& 0x8000#16) ≠ 0#16)

/-- R124: the signed-overflow formula of a subtraction. -/
def overflowSigned (op1 op2 r : Word) : Bool :=
  decide (((op1 ^^^ op2) &&& (op1 ^^^ r) &&& 0x8000#16) ≠ 0#16)

/-- R123: `bool(op1 < op2)`, the unsigned borrow. -/
def borrowOf (op1 op2 : Word) : Bool := decide (op1.toNat < op2.toNat)

/-- R124: OVERFLOW of a compare, as SUB_OVERFLOW_RULE says. -/
def overflowOfSub (rule : SubOverflowRule) (op1 op2 r : Word) : Bool :=
  match rule with
  | .formulaAsWritten => overflowFormula op1 op2 r
  | .trueSigned => overflowSigned op1 op2 r

/-- R120, R28: FLAGS after SetZN(r). -/
def flagsZN (r flags : Word) : Word :=
  writeFlags maskZN (packCond (zeroOf r) (negativeOf r) false false) flags

/-- R120, R122, R123, R28: FLAGS after SetZN(r) with CARRY and OVERFLOW written too. -/
def flagsZNCV (r : Word) (c v : Bool) (flags : Word) : Word :=
  writeFlags maskCond (packCond (zeroOf r) (negativeOf r) v c) flags

end Sys2Proof.Machine
end

