-- ==== Sys2Proof/Machine/Ops.lean ====
section
/-! DEFINITION. The named operations over registers and memory, and the taking of a trap. -/

namespace Sys2Proof.Machine

/-! ## The word memory (R50 to R58) -/

/-- What an address that no cell lists reads as (INIT_MEM of State.reset; notes/assumptions/2.md). -/
def unlistedWord : Word := 0x0000#16

/-- The word at an address. -/
def Memory.read (m : Memory) (a : Nat) : Word :=
  match m with
  | [] => unlistedWord
  | (b, w) :: rest => if a = b then w else Memory.read rest a

/-- The memory with an address no longer listed. -/
def Memory.erase (m : Memory) (a : Nat) : Memory := m.filter fun c => c.1 != a

/-- The memory with a cell put in front of the first cell of a higher address. -/
def Memory.insert (m : Memory) (a : Nat) (v : Word) : Memory :=
  match m with
  | [] => [(a, v)]
  | (b, w) :: rest => if a < b then (a, v) :: (b, w) :: rest else (b, w) :: Memory.insert rest a v

/-- The memory after one word is written: a word equal to what an unlisted address reads as is not listed. -/
def Memory.write (m : Memory) (a : Nat) (v : Word) : Memory :=
  if v = unlistedWord then m.erase a else (m.erase a).insert a v

/-- The memory after words are written at rising addresses. -/
def Memory.writeList (m : Memory) (a : Nat) (vs : List Word) : Memory :=
  match vs with
  | [] => m
  | v :: rest => Memory.writeList (m.write a v) (a + 1) rest

/-- The canonical form: addresses strictly rising, no cell equal to what an unlisted address reads as. -/
abbrev Memory.wf (m : Memory) : Prop :=
  m.Pairwise (fun c d => c.1 < d.1) ∧ ∀ c ∈ m, c.2 ≠ unlistedWord

/-- R50: addresses N and above do not exist, so no cell lists one. -/
abbrev Memory.within (m : Memory) (n : Nat) : Prop := ∀ c ∈ m, c.1 < n

/-! ## Registers -/

/-- R10: `x[i]`. No register is hardwired (R20). -/
def State.readReg (s : State) (r : Reg) : Word := s.regs[r]

/-- R10: `x[i] <- v`. -/
def State.writeReg (s : State) (r : Reg) (v : Word) : State :=
  { s with regs := s.regs.set r.val v r.isLt }

/-- R10: `pc <- target`. -/
def State.setPc (s : State) (target : Word) : State := { s with pc := target }

/-- R23: `PC <- (PC + 1) mod 2^16`. -/
def State.advancePc (s : State) : State := s.setPc (s.pc + 1#16)

/-- R30: IR. -/
def State.setIr (s : State) (w : Word) : State := { s with ir := w }

/-- The state with FLAGS replaced. -/
def State.setFlags (s : State) (f : Word) : State := { s with flags := f }

/-! ## Flags of a state -/

/-- R24: `FLAGS.Z`. -/
def State.flagZ (s : State) : Bool := zeroBit s.flags

/-- R24: `FLAGS.N`. -/
def State.flagN (s : State) : Bool := negativeBit s.flags

/-- R24: `FLAGS.V`. -/
def State.flagV (s : State) : Bool := overflowBit s.flags

/-- R24: `FLAGS.C`. -/
def State.flagC (s : State) : Bool := carryBit s.flags

/-- R26, R41: `FLAGS.HALT`, which is what `halted()` returns. -/
def State.halted (s : State) : Bool := haltBit s.flags

/-- R120: SetZN(r). -/
def State.setZN (s : State) (r : Word) : State := s.setFlags (flagsZN r s.flags)

/-- R120, R122, R123: SetZN(r) together with CARRY and OVERFLOW, in one write (R28, R125). -/
def State.setZNCV (s : State) (r : Word) (c v : Bool) : State := s.setFlags (flagsZNCV r c v s.flags)

/-- R26: FLAGS.HALT ← 1. -/
def State.setHalt (s : State) : State := s.setFlags (s.flags ||| maskHalt)

/-! ## The memory interface (R53 to R55) -/

/-- R10, R55: `InRange(addr)`. -/
def State.inRange (s : State) (a : Word) : Bool := decide (a.toNat < s.cfg.memWords)

/-- R53: `MemRead(addr, 1)`, called only where `InRange(addr)`. -/
def State.memRead (s : State) (a : Word) : Word := s.mem.read a.toNat

/-- R54: `MemWrite(addr, 1, v)`, called only where `InRange(addr)`. -/
def State.memWrite (s : State) (a v : Word) : State := { s with mem := s.mem.write a.toNat v }

/-! ## Traps (R230 to R236) -/

/-- R231: the cause a trap records. -/
def Trap.cause : Trap → FaultCause
  | .illegalOpcode => .illegalOpcode
  | .addressOutOfRange => .addressOutOfRange

/-- R231: the numbers of FAULT_CAUSE. -/
def FaultCause.code : FaultCause → Nat
  | .none => 0
  | .illegalOpcode => 1
  | .addressOutOfRange => 2

/-- R233: trap entry. FLAGS.HALT is set and the fault record written; nothing else is. There is no return
from a trap (R236): `reset` is the only way back to RUNNING. -/
def State.raise (s : State) (e : Trap) (addr : Word) : State :=
  { s.setHalt with faultCause := e.cause, faultAddr := addr }

/-! ## Committing a result (R115) -/

/-- R115: one register and Z, N written from the result. -/
def State.commitZN (s : State) (dst : Reg) (r : Word) : State := (s.writeReg dst r).setZN r

/-- R115: one register and Z, N, C, V written from the result. -/
def State.commitZNCV (s : State) (dst : Reg) (r : Word) (c v : Bool) : State :=
  (s.writeReg dst r).setZNCV r c v

end Sys2Proof.Machine
end

