-- ==== Sys2Proof/Machine/Operands.lean ====
section
/-! DEFINITION. The operand forms (R82 to R86, R156). -/

namespace Sys2Proof.Machine

/-- R83 (decision D10): a 4-bit immediate, zero-extended to 16 bits. -/
def zext16 (n : Nibble) : Word := n.setWidth 16

/-- R85: a JMPR offset as the Word that is added to PC modulo 2^16. -/
def sext16 (offset : Int) : Word := BitVec.ofInt 16 offset

/-- R156: the effective address of register-indirect addressing, the whole register. -/
def State.effectiveAddr (s : State) (r : Reg) : Word := s.readReg r

end Sys2Proof.Machine
end

