-- ==== Sys2Proof/Machine/Arithmetic.lean ====
section
/-! DEFINITION. ADD and ADC (R170 to R172). -/

namespace Sys2Proof.Machine

/-- R122, R170: an addition with its exact sum `wide`, truncated to a Word, and the flags of `op1` and `op2`. -/
def commitSum (dst : Reg) (op1 op2 : Word) (wide : Nat) (s : State) : State :=
  let r := BitVec.ofNat 16 wide
  s.commitZNCV dst r (carryOfSum wide) (overflowFormula op1 op2 r)

/-- R170: ADD. -/
def execAdd (acc reg : Reg) (s : State) : Answer :=
  let a := s.readReg acc
  let b := s.readReg reg
  .next (commitSum acc a b (a.toNat + b.toNat) s)

/-- R171: ADC, by the ADC_RULE of the machine. All operands are read before the one write (R114). -/
def execAdc (acc reg : Reg) (s : State) : Answer :=
  let a := s.readReg acc
  let b := s.readReg reg
  let cin := s.flagC.toNat
  match s.cfg.adcRule with
  | .incrementThenAdd =>
    let op1 := BitVec.ofNat 16 (a.toNat + cin)
    .next (commitSum acc op1 b (op1.toNat + b.toNat) s)
  | .fullSum => .next (commitSum acc a b (a.toNat + b.toNat + cin) s)

end Sys2Proof.Machine
end

