-- ==== Sys2Proof/Machine/Compare.lean ====
section
/-! DEFINITION. CMP reg, CMP imm4 and CMP imm16 (R190 to R192). -/

namespace Sys2Proof.Machine

/-- R123, R124, R190: the flags of `op1 − op2`; the difference itself is kept nowhere. -/
def compareWords (op1 op2 : Word) (s : State) : State :=
  let r := op1 - op2
  s.setZNCV r (borrowOf op1 op2) (overflowOfSub s.cfg.subOverflowRule op1 op2 r)

/-- R190: CMP reg. -/
def execCmpReg (acc reg : Reg) (s : State) : Answer :=
  .next (compareWords (s.readReg acc) (s.readReg reg) s)

/-- R191: CMP imm4. -/
def execCmpImm4 (acc : Reg) (imm : Nibble) (s : State) : Answer :=
  .next (compareWords (s.readReg acc) (zext16 imm) s)

/-- R192: CMP imm16. -/
def execCmpImm16 (acc : Reg) (imm16 : Word) (s : State) : Answer :=
  .next (compareWords (s.readReg acc) imm16 s)

end Sys2Proof.Machine
end

