-- ==== Sys2Proof/Machine/Condition.lean ====
section
/-! DEFINITION. The condition evaluator (R200 to R202). -/

namespace Sys2Proof.Machine

/-- R201: the test a name stands for, on a FLAGS word. -/
def condHolds (c : Cond) (f : Word) : Bool :=
  match c with
  | .al => true
  | .eq => zeroBit f
  | .b => carryBit f
  | .be => carryBit f || zeroBit f
  | .l => negativeBit f != overflowBit f
  | .le => (negativeBit f != overflowBit f) || zeroBit f
  | .n => negativeBit f
  | .o => overflowBit f
  | .no => !overflowBit f
  | .p => !negativeBit f
  | .g => !((negativeBit f != overflowBit f) || zeroBit f)
  | .ge => negativeBit f == overflowBit f
  | .a => !carryBit f && !zeroBit f
  | .ae => !carryBit f
  | .neq => !zeroBit f

/-- R201: COND_TABLE with the two codes the source fixes, 0 (unconditional) and 1 (EQ). -/
def condOf (t : CondTable) (c : CondCode) : Option Cond :=
  (#v[some .al, some .eq, t.code2, t.code3, t.code4, t.code5, t.code6, t.code7, t.code8, t.code9,
      t.code10, t.code11, t.code12, t.code13, t.code14, t.code15] : Vector (Option Cond) 16)[c]

/-- R200: `Cond(c)` on the flags as they stand; `none` is the "undefined condition" signal of R202. -/
def State.evalCond (s : State) (c : CondCode) : Option Bool :=
  (condOf s.cfg.condTable c).map fun t => condHolds t s.flags

end Sys2Proof.Machine
end

