-- ==== Sys2Proof/Machine/Control.lean ====
section
/-! DEFINITION. JMPR and JMP (R203 to R206). Neither checks its target (R205). -/

namespace Sys2Proof.Machine

/-- R203: `pc <- (PC + sext_16(params)) mod 2^16`, with PC already past the instruction word. -/
def execJmpr (offset : Int) (s : State) : Answer := .next (s.setPc (s.pc + sext16 offset))

/-- R204: taken if the condition holds; not taken if it does not, or if the code has no test (R202). PC is
already past the operand word. -/
def execJmp (cond : CondCode) (target : Word) (s : State) : Answer :=
  match s.evalCond cond with
  | some true => .next (s.setPc target)
  | some false => .next s
  | none => .next s

end Sys2Proof.Machine
end

