-- ==== Sys2Proof/Machine/LoadStore.lean ====
section
/-! DEFINITION. Loads and stores (R150 to R156). -/

namespace Sys2Proof.Machine

/-- R55, R154, R155: the bounds check, then the write of one word and Z, N from the stored value; or the
trap, with nothing written. -/
def storeWord (a v : Word) (s : State) : Answer :=
  if s.inRange a then .next ((s.memWrite a v).setZN v) else .next (s.raise .addressOutOfRange a)

/-- R150: LOAD ind. -/
def execLoadInd (dst addr : Reg) (s : State) : Answer :=
  let a := s.effectiveAddr addr
  if s.inRange a then .next (s.commitZN dst (s.memRead a)) else .next (s.raise .addressOutOfRange a)

/-- R151: LOAD imm4. -/
def execLoadImm4 (dst : Reg) (imm : Nibble) (s : State) : Answer := .next (s.commitZN dst (zext16 imm))

/-- R152: LOAD reg. -/
def execLoadReg (dst src : Reg) (s : State) : Answer := .next (s.commitZN dst (s.readReg src))

/-- R153: LOAD imm16. -/
def execLoadImm16 (dst : Reg) (imm16 : Word) (s : State) : Answer := .next (s.commitZN dst imm16)

/-- R154: STORE ind(reg). -/
def execStoreIndReg (addr src : Reg) (s : State) : Answer :=
  storeWord (s.effectiveAddr addr) (s.readReg src) s

/-- R155: STORE ind(imm4). -/
def execStoreIndImm4 (imm : Nibble) (addr : Reg) (s : State) : Answer :=
  storeWord (s.effectiveAddr addr) (zext16 imm) s

end Sys2Proof.Machine
end

