-- ==== Sys2Proof/Machine/Logic.lean ====
section
/-! DEFINITION. NOT, AND, OR and XOR (R180 to R183). -/

namespace Sys2Proof.Machine

/-- R180: NOT, whose register is the low nibble. -/
def execNot (reg : Reg) (s : State) : Answer := .next (s.commitZN reg (~~~(s.readReg reg)))

/-- R181: AND. -/
def execAnd (acc reg : Reg) (s : State) : Answer :=
  .next (s.commitZN acc (s.readReg acc &&& s.readReg reg))

/-- R182: OR. -/
def execOr (acc reg : Reg) (s : State) : Answer :=
  .next (s.commitZN acc (s.readReg acc ||| s.readReg reg))

/-- R183: XOR. -/
def execXor (acc reg : Reg) (s : State) : Answer :=
  .next (s.commitZN acc (s.readReg acc ^^^ s.readReg reg))

end Sys2Proof.Machine
end

