-- ==== Sys2Proof/Machine/System.lean ====
section
/-! DEFINITION. NOP and HALT (R140, R141). The illegal-opcode path (R142) is no instruction: the cycle takes
it (Machine/Cycle.lean). -/

namespace Sys2Proof.Machine

/-- R140: nothing beyond the fetch. -/
def execNop (s : State) : Answer := .next s

/-- R141: `FLAGS.HALT <- 1`; no trap, no fault record. -/
def execHalt (s : State) : Answer := .next s.setHalt

end Sys2Proof.Machine
end

