-- ==== Sys2Proof/Machine/Dispatch.lean ====
section
/-! DEFINITION. The dispatch (R116): one arm per instruction, each a call of its meaning. The state given to
exec is that at the start of the execute step of R110: IR written, PC past the words of the instruction. -/

namespace Sys2Proof.Machine

def exec (i : Instr) (s : State) : Host.Outcome State Fault Refusal :=
  match i with
  | .nop => Sys2Proof.Machine.execNop s
  | .halt => Sys2Proof.Machine.execHalt s
  | .loadInd dst addr => Sys2Proof.Machine.execLoadInd dst addr s
  | .loadImm4 dst imm => Sys2Proof.Machine.execLoadImm4 dst imm s
  | .loadReg dst src => Sys2Proof.Machine.execLoadReg dst src s
  | .loadImm16 dst imm16 => Sys2Proof.Machine.execLoadImm16 dst imm16 s
  | .storeIndReg addr src => Sys2Proof.Machine.execStoreIndReg addr src s
  | .storeIndImm4 imm addr => Sys2Proof.Machine.execStoreIndImm4 imm addr s
  | .add acc reg => Sys2Proof.Machine.execAdd acc reg s
  | .adc acc reg => Sys2Proof.Machine.execAdc acc reg s
  | .lnot reg => Sys2Proof.Machine.execNot reg s
  | .land acc reg => Sys2Proof.Machine.execAnd acc reg s
  | .lor acc reg => Sys2Proof.Machine.execOr acc reg s
  | .lxor acc reg => Sys2Proof.Machine.execXor acc reg s
  | .cmpReg acc reg => Sys2Proof.Machine.execCmpReg acc reg s
  | .cmpImm4 acc imm => Sys2Proof.Machine.execCmpImm4 acc imm s
  | .cmpImm16 acc imm16 => Sys2Proof.Machine.execCmpImm16 acc imm16 s
  | .jmpr offset => Sys2Proof.Machine.execJmpr offset s
  | .jmp cond target => Sys2Proof.Machine.execJmp cond target s

end Sys2Proof.Machine
end

