-- ==== Sys2Proof/Machine/Cycle.lean ====
section
/-! DEFINITION. One cycle, `run_once` (R110 to R117): fetch, increment PC, decode, fetch the operand word,
execute; with the checks in the order of R235. -/

namespace Sys2Proof.Machine

/-- How far a cycle has come when its execute step would start. -/
inductive Fetched
  /-- R263: no `reset` since construction -/
  | beforeReset
  /-- R111: entered while HALTED -/
  | idle
  /-- R233: a check before the execute step has failed, and this is the state of the trap -/
  | trapped (t : State)
  /-- the execute step of `i` starts in the state `t` -/
  | ready (i : Instr) (t : State)
  deriving DecidableEq, Repr

/-- R112: the state after a successful instruction fetch: IR written, PC one further. -/
def State.afterFetch (s : State) : State := (s.setIr (s.memRead s.pc)).advancePc

/-- R113: the operand-word fetch of a two-word opcode, in the state after the instruction fetch. -/
def State.fetchOperand (op : Op) (s : State) : Fetched :=
  if s.inRange s.pc then .ready (Instr.ofFields op s.ir (s.memRead s.pc)) s.advancePc
  else .trapped (s.raise .addressOutOfRange s.pc)

/-- R81, R142, R113: decoding IR in the state after the instruction fetch from `a0`. The illegal-opcode test
comes before the operand-word fetch (R235). -/
def State.decodeIr (a0 : Word) (s : State) : Fetched :=
  match Op.ofByte (opcodeField s.ir) with
  | none => .trapped (s.raise .illegalOpcode a0)
  | some op =>
    if op.twoWords then State.fetchOperand op s else .ready (Instr.ofFields op s.ir 0#16) s

/-- R110 to R113, R142: the cycle up to its execute step. -/
def State.fetchDecode (s : State) : Fetched :=
  if s.resetDone = false then .beforeReset
  else if s.halted then .idle
  else if s.inRange s.pc then State.decodeIr s.pc s.afterFetch
  else .trapped (s.raise .addressOutOfRange s.pc)

/-- R110: `run_once()`. -/
def runOnce (s : State) : Answer :=
  match s.fetchDecode with
  | .beforeReset => .refused .runBeforeReset
  | .idle => .next s
  | .trapped t => .next t
  | .ready i t => exec i t

/-- The state in which the execute step of an instruction of `words` words starts, as R112 and R113 leave
it: IR holds the instruction word and PC is past the words of the instruction. -/
def State.afterWords (s : State) (words : Nat) : State :=
  (s.setIr (s.memRead s.pc)).setPc (s.pc + BitVec.ofNat 16 words)

/-- The words that can be fetched at PC: none, one or two. -/
def State.fetchWindow (s : State) : List Word :=
  if s.inRange s.pc then
    if s.inRange (s.pc + 1#16) then [s.memRead s.pc, s.memRead (s.pc + 1#16)] else [s.memRead s.pc]
  else []

/-- A state in which the next step runs the instruction whose two words are given: they are stored at PC,
where the addresses exist, HALT is 0 and `reset` has been called. Nothing else changes. -/
def State.placeWords (s : State) (first second : Word) : State :=
  let s1 := if s.inRange (s.pc + 1#16) then s.memWrite (s.pc + 1#16) second else s
  let s2 := if s.inRange s.pc then s1.memWrite s.pc first else s1
  { s2.setFlags (s.flags &&& ~~~maskHalt) with resetDone := true }

end Sys2Proof.Machine
end

