-- ==== Sys2Proof/Machine/Step.lean ====
section
/-! DEFINITION. One step of the machine is one `run_once` (R6, R110). -/

namespace Sys2Proof.Machine

/-- R6: "One step is one call of `run_once`." -/
def step (s : State) : Host.Outcome State Fault Refusal := runOnce s

/-- The state in which `step` fetches and runs the instruction whose bits are `w`: its words at PC, as a
loader's `loadmem` would place them (notes/assumptions/8.md). -/
def State.withFetchWord (s : State) (nbits w : Nat) : State :=
  s.placeWords (tableWords nbits w).1 (tableWords nbits w).2

end Sys2Proof.Machine
end

