-- ==== Sys2Proof/Machine/Interface.lean ====
section
/-! DEFINITION. What the host can do to the block (R40 to R44, R60, R61, R260 to R264): construct it, reset it,
run one cycle, load memory, and read. -/

namespace Sys2Proof

/-- R44: the trace record's mnemonic, whose text "is not normative" (a free value: notes/assumptions/7.md). -/
opaque Config.traceMnemonic : Word → String

/-- R44: the trace record's operand summary, whose text "is not normative" (a free value:
notes/assumptions/7.md). -/
opaque Config.traceOperandSummary : Machine.State → String

/-- R30: IR after `reset`, "unspecified" (93_implementation_defined.md section 2: any value). A free value:
notes/assumptions/3.md. -/
opaque Config.irAfterReset : Machine.State → Word

namespace Machine

/-! ## Construction and reset -/

/-- R35, R263: a machine right after construction, with its parameters and its memory INIT_MEM. Everything else is
unspecified: it is whatever `power` holds. -/
def State.construct (cfg : Config) (initMem : Memory) (power : State) : State :=
  { power with cfg := cfg, mem := initMem, resetDone := false }

/-- R260: `reset()`. It does not write memory; IR after it is a free value (notes/assumptions/3.md). -/
def State.resetOp (s : State) : State :=
  { s with
    regs := Vector.replicate 16 0x0000#16
    flags := 0x0000#16
    sp := 0x0000#16
    spx := 0x0000#16
    ir := Config.irAfterReset s
    pc := 0x0100#16
    faultCause := .none
    faultAddr := 0x0000#16
    resetDone := true }

/-! ## The bulk load -/

/-- R60: how many words `loadmem` copies: `min(length, N − start_address)`, and 0 if `start_address ≥ N`. -/
def State.loadCount (s : State) (length start : Nat) : Nat := min length (s.cfg.memWords - start)

/-- R60: the words `loadmem` copies. -/
def State.loadWords (s : State) (buffer : List Word) (length start : Nat) : List Word :=
  buffer.take (s.loadCount length start)

/-- R60: `loadmem(buffer, length, start_address)`. -/
def State.loadmem (s : State) (buffer : List Word) (length start : Nat) : State :=
  { s with mem := s.mem.writeList start (s.loadWords buffer length start) }

/-! ## Reading (R41, R42; `halted()` is State.halted, a register is State.readReg, and PC, FLAGS, SP and SPX are
the fields) -/

/-- R42: the memory word at `a`; no value where `a ≥ N` (decision D21). -/
def State.hostReadMem (s : State) (a : Nat) : Option Word :=
  if a < s.cfg.memWords then some (s.mem.read a) else none

/-- R42: the fault record. -/
def State.faultRecord (s : State) : FaultCause × Word := (s.faultCause, s.faultAddr)

/-! ## The trace port -/

/-- R44: one trace record. -/
structure TraceRecord where
  pcBefore : Word
  fetchedWord : Word
  opcode : Byte
  params : Byte
  mnemonic : String
  operandSummary : String
  deriving DecidableEq, Repr

/-- R44: the record of the cycle that starts in `s`; none for a cycle entered while HALTED, none where the instruction
fetch faults. -/
def State.traceRecord (s : State) : Option TraceRecord :=
  if s.resetDone = true ∧ s.halted = false ∧ s.inRange s.pc = true then
    some
      { pcBefore := s.pc
        fetchedWord := s.memRead s.pc
        opcode := opcodeField (s.memRead s.pc)
        params := paramsField (s.memRead s.pc)
        mnemonic := Config.traceMnemonic (s.memRead s.pc)
        operandSummary := Config.traceOperandSummary s }
  else none

/-! ## Runs of host operations -/

/-- R40: the host's operations that can change state; the accessors change none. -/
inductive HostOp
  | reset
  | runOnce
  | loadmem (buffer : List Word) (length start : Nat)
  deriving DecidableEq, Repr

/-- R40: one host operation, complete before the next begins. -/
def applyHost (op : HostOp) (s : State) : Answer :=
  match op with
  | .reset => .next s.resetOp
  | .runOnce => step s
  | .loadmem buffer length start => .next (s.loadmem buffer length start)

/-- R40: host operations one after another. -/
def runHost (ops : List HostOp) (s : State) : Answer :=
  match ops with
  | [] => .next s
  | op :: rest =>
    match applyHost op s with
    | .next t => runHost rest t
    | .fault r => .fault r
    | .refused r => .refused r

end Machine
end Sys2Proof
end

