-- ==== Sys2Proof/Machine/Accesses.lean ====
section
/-! DEFINITION. The memory accesses of a cycle (R56) and the words that each operation writes (R62): what the machine of
Machine/Cycle.lean does to memory, said on its own, for claims to be stated in. -/

namespace Sys2Proof.Machine

/-- R56: what an access is made for. -/
inductive AccessKind
  | instructionFetch
  | operandFetch
  | dataRead
  | dataWrite
  deriving DecidableEq, Repr

/-- R56: one access of one word. -/
structure Access where
  kind : AccessKind
  addr : Word
  deriving DecidableEq, Repr

/-- R56, rows 3: where an instruction's execute step accesses data memory, before the bounds check. -/
def dataAccess (i : Instr) (s : State) : Option Access :=
  match i with
  | .loadInd _ addr => some { kind := .dataRead, addr := s.effectiveAddr addr }
  | .storeIndReg addr _ => some { kind := .dataWrite, addr := s.effectiveAddr addr }
  | .storeIndImm4 _ addr => some { kind := .dataWrite, addr := s.effectiveAddr addr }
  | .nop | .halt | .loadImm4 _ _ | .loadReg _ _ | .loadImm16 _ _ | .add _ _ | .adc _ _ | .lnot _
  | .land _ _ | .lor _ _ | .lxor _ _ | .cmpReg _ _ | .cmpImm4 _ _ | .cmpImm16 _ _ | .jmpr _
  | .jmp _ _ => none

/-- R55, R56: the accesses the cycle that starts in `s` makes, in order; an access that fails its bounds check is not
made. -/
def State.accesses (s : State) : List Access :=
  let fetch : Access := { kind := .instructionFetch, addr := s.pc }
  match s.fetchDecode with
  | .beforeReset => []
  | .idle => []
  | .trapped _ => if s.inRange s.pc then [fetch] else []
  | .ready i t =>
    [fetch]
      ++ (if i.op.twoWords then [{ kind := .operandFetch, addr := s.pc + 1#16 }] else [])
      ++ (dataAccess i t).toList.filter fun x => t.inRange x.addr

/-- R154, R155: the address and the value an instruction stores; none where it stores nothing, or traps. -/
def storeOf (i : Instr) (s : State) : Option (Word × Word) :=
  match i with
  | .storeIndReg addr src =>
    if s.inRange (s.effectiveAddr addr) then some (s.effectiveAddr addr, s.readReg src) else none
  | .storeIndImm4 imm addr =>
    if s.inRange (s.effectiveAddr addr) then some (s.effectiveAddr addr, zext16 imm) else none
  | .nop | .halt | .loadInd _ _ | .loadImm4 _ _ | .loadReg _ _ | .loadImm16 _ _ | .add _ _
  | .adc _ _ | .lnot _ | .land _ _ | .lor _ _ | .lxor _ _ | .cmpReg _ _ | .cmpImm4 _ _
  | .cmpImm16 _ _ | .jmpr _ | .jmp _ _ => none

/-- The address and the value the cycle that starts in `s` stores. -/
def State.cycleStore (s : State) : Option (Word × Word) :=
  match s.fetchDecode with
  | .beforeReset => none
  | .idle => none
  | .trapped _ => none
  | .ready i t => storeOf i t

/-- The cells `vs` fill from address `a` up. -/
def cellsFrom (a : Nat) (vs : List Word) : List Cell :=
  match vs with
  | [] => []
  | v :: rest => (a, v) :: cellsFrom (a + 1) rest

/-- R51, R62: the words one host operation writes, in order. -/
def writesOf (op : HostOp) (s : State) : List Cell :=
  match op with
  | .reset => []
  | .runOnce => (s.cycleStore.map fun x => (x.1.toNat, x.2)).toList
  | .loadmem buffer length start => cellsFrom start (s.loadWords buffer length start)

/-- R62: every word written by a run of host operations, in order. -/
def writeLog (ops : List HostOp) (s : State) : List Cell :=
  match ops with
  | [] => []
  | op :: rest =>
    match applyHost op s with
    | .next t => writesOf op s ++ writeLog rest t
    | .fault _ => []
    | .refused _ => []

/-- R62: the last value a log writes at an address. -/
def lastWrite (log : List Cell) (a : Nat) : Option Word :=
  match log with
  | [] => none
  | (b, v) :: rest =>
    match lastWrite rest a with
    | some w => some w
    | none => if b = a then some v else none

end Sys2Proof.Machine
end

