-- ==== Sys2Proof/Safety.lean ====
section
/-! DEFINITION. The terms claims are stated in: the invariant of a machine that has been reset, what a safe cycle is, and
what it means that part of a state is kept. -/

namespace Sys2Proof.Machine

/-! ## Running and trapping -/

/-- R26, R263: the next cycle fetches. -/
def State.running (s : State) : Prop := s.resetDone = true ∧ s.halted = false

/-- R244: a trap has ended the run. -/
def State.trapped (s : State) : Prop := s.faultCause ≠ .none

/-- A safe cycle: it has a next state, and takes no trap on the way. -/
def State.safeCycle (s : State) : Prop := ∃ t, step s = .next t ∧ t.faultRecord = s.faultRecord

/-! ## The invariant -/

/-- R27: the bits of FLAGS nothing writes, 4 to 7 and 9 to 15. -/
def reservedFlags : Word := 0xFEF0#16

/-- R31, R231: what the fault record says is so. A trap has halted the block; ILLEGAL_OPCODE names an address that exists,
IR holds the illegal word, and PC is one past it; ADDRESS_OUT_OF_RANGE names an address that does not exist. -/
def State.faultRecordTrue (s : State) : Prop :=
  match s.faultCause with
  | .none => s.faultAddr = 0x0000#16
  | .illegalOpcode =>
    s.halted = true ∧ s.faultAddr.toNat < s.cfg.memWords ∧ Op.ofByte (opcodeField s.ir) = none
      ∧ s.pc = s.faultAddr + 1#16
  | .addressOutOfRange => s.halted = true ∧ s.cfg.memWords ≤ s.faultAddr.toNat

/-- What holds of a machine from its first reset on. -/
structure State.Inv (s : State) : Prop where
  /-- R7: the capacity is a legal one -/
  cfgWf : s.cfg.wf
  /-- the memory is in its canonical form -/
  memWf : s.mem.wf
  /-- R50: no cell lies at an address that does not exist -/
  memWithin : s.mem.within s.cfg.memWords
  /-- R27: BRANCH, INTERRUPT and the unassigned bits of FLAGS read 0 -/
  flagsReserved : s.flags &&& reservedFlags = 0#16
  /-- R29 -/
  spZero : s.sp = 0x0000#16
  /-- R29 -/
  spxZero : s.spx = 0x0000#16
  /-- R263 -/
  wasReset : s.resetDone = true
  /-- R31, R231, R233 -/
  faultTrue : s.faultRecordTrue

/-! ## What is kept -/

/-- Every general register is kept. -/
def RegsKept (s t : State) : Prop := ∀ r, t.readReg r = s.readReg r

/-- Every general register but `d` is kept. -/
def RegsKeptBut (d : Reg) (s t : State) : Prop := ∀ r, r ≠ d → t.readReg r = s.readReg r

/-- Every word of memory is kept. -/
def MemKept (s t : State) : Prop := ∀ a, t.mem.read a = s.mem.read a

/-- Every word of memory but the one at `a` is kept. -/
def MemKeptBut (a : Word) (s t : State) : Prop := ∀ b, b ≠ a.toNat → t.mem.read b = s.mem.read b

/-- Every bit of FLAGS outside `mask` is kept. -/
def FlagsKeptBut (mask : Word) (s t : State) : Prop := t.flags &&& ~~~mask = s.flags &&& ~~~mask

/-- All that no execute step but a trap writes is kept: SP, SPX, IR, the fault record, the parameters. -/
def SpecialsKept (s t : State) : Prop :=
  t.sp = s.sp ∧ t.spx = s.spx ∧ t.ir = s.ir ∧ t.faultCause = s.faultCause ∧ t.faultAddr = s.faultAddr
    ∧ t.cfg = s.cfg ∧ t.resetDone = s.resetDone

/-- R233: `t` is `s` after trap entry: HALT set, the fault record written, and nothing else written. -/
def TrapEntered (e : Trap) (addr : Word) (s t : State) : Prop :=
  t.halted = true ∧ FlagsKeptBut 0x0100#16 s t ∧ t.faultCause = e.cause ∧ t.faultAddr = addr
    ∧ t.pc = s.pc ∧ RegsKept s t ∧ MemKept s t
    ∧ t.sp = s.sp ∧ t.spx = s.spx ∧ t.ir = s.ir ∧ t.cfg = s.cfg ∧ t.resetDone = s.resetDone

/-! ## What an instruction writes (R25, R115, R120) -/

/-- R120: Z and N of `t` are those of the result `r`. -/
def FlagsFromResult (r : Word) (t : State) : Prop := (t.flagZ = true ↔ r = 0#16) ∧ t.flagN = r.getLsbD 15

/-- `t` is `s` with the register `d`, Z and N written from `r`, and nothing else written. -/
def WritesRegZN (d : Reg) (r : Word) (s t : State) : Prop :=
  t.readReg d = r ∧ FlagsFromResult r t
    ∧ RegsKeptBut d s t ∧ FlagsKeptBut 0x0003#16 s t ∧ MemKept s t ∧ SpecialsKept s t ∧ t.pc = s.pc

/-- `t` is `s` with the register `d` and all four condition flags written, C set iff `c` and V set iff `v`, and
nothing else written. -/
def WritesRegZNCV (d : Reg) (r : Word) (c v : Prop) (s t : State) : Prop :=
  t.readReg d = r ∧ FlagsFromResult r t ∧ (t.flagC = true ↔ c) ∧ (t.flagV = true ↔ v)
    ∧ RegsKeptBut d s t ∧ FlagsKeptBut 0x000F#16 s t ∧ MemKept s t ∧ SpecialsKept s t ∧ t.pc = s.pc

/-- `t` is `s` with all four condition flags written, Z and N from `r`, C set iff `c` and V set iff `v`, and
nothing else written. -/
def WritesFlagsOnly (r : Word) (c v : Prop) (s t : State) : Prop :=
  FlagsFromResult r t ∧ (t.flagC = true ↔ c) ∧ (t.flagV = true ↔ v)
    ∧ RegsKept s t ∧ FlagsKeptBut 0x000F#16 s t ∧ MemKept s t ∧ SpecialsKept s t ∧ t.pc = s.pc

/-- `t` is `s` with the memory word at `a`, Z and N written from `v`, and nothing else written. -/
def WritesMemZN (a v : Word) (s t : State) : Prop :=
  t.memRead a = v ∧ FlagsFromResult v t
    ∧ RegsKept s t ∧ FlagsKeptBut 0x0003#16 s t ∧ MemKeptBut a s t ∧ SpecialsKept s t ∧ t.pc = s.pc

end Sys2Proof.Machine
end

