-- ==== Sys2Proof/Certificates/Slice0/Obligations.lean ====
section
/-! DEFINITION. The statements for the provers, each from the rules of spec/ its docstring names. Where a clause rests on a
choice that the spec marks as its own (a decision D<n> of 92_eei_decisions.md, or a sentence marked derived) or on an entry of
the assumption log, the docstring says so. -/

namespace Sys2Proof.Claims
open Sys2Proof Sys2Proof.Machine

/-! ## What the statements are written in -/

/-- R81: the instruction word with the opcode in bits 15 to 8, H in bits 7 to 4 and L in bits 3 to 0. -/
def word (opcode : Byte) (h l : Nibble) : Word := (opcode ++ h ++ l : BitVec (8 + 4 + 4))

/-- R81: the instruction word with the opcode and the whole params byte. -/
def wordOfParams (opcode params : Byte) : Word := (opcode ++ params : BitVec (8 + 8))

/-- R20: the nibble that holds a register's index. -/
def nib (r : Reg) : Nibble := BitVec.ofNat 4 r.val

/-- R89: the 237 illegal opcode bytes, as the ranges the rule lists. -/
def illegalByte (b : Byte) : Bool :=
  let n := b.toNat
  (0x04 ≤ n && n ≤ 0x0F) || (0x12 ≤ n && n ≤ 0x1F) || (0x22 ≤ n && n ≤ 0x2F) || (0x34 ≤ n && n ≤ 0x3F)
    || (0x43 ≤ n && n ≤ 0x4F) || (0x52 ≤ n && n ≤ 0xF7) || (0xF9 ≤ n && n ≤ 0xFE)

/-- R113: the opcodes that fetch an operand word. -/
def takesOperand (b : Byte) : Bool := b = 0x03#8 || b = 0x42#8 || b = 0x51#8

/-- R87: the bits of the instruction word that are no ignored field. -/
def usedBits (b : Byte) : Word :=
  if b = 0xFF#8 ∨ b = 0xF8#8 then 0xFF00#16
  else if b = 0x30#8 ∨ b = 0x51#8 then 0xFF0F#16
  else if b = 0x03#8 ∨ b = 0x42#8 then 0xFFF0#16
  else 0xFFFF#16

/-- R56, rows 3: the data address of an instruction word, `x[L]` or `x[H]`. -/
def dataAddress (w : Word) (s : State) : Option Word :=
  if opcodeField w = 0x00#8 ∨ opcodeField w = 0x11#8 then some (s.readReg (lowNibble w).toFin)
  else if opcodeField w = 0x10#8 then some (s.readReg (highNibble w).toFin)
  else none

/-- R25: the condition flags an instruction writes, as a mask of FLAGS. -/
def condMask : Instr → Word
  | .loadInd _ _ | .loadImm4 _ _ | .loadReg _ _ | .loadImm16 _ _ | .storeIndReg _ _ | .storeIndImm4 _ _
  | .lnot _ | .land _ _ | .lor _ _ | .lxor _ _ => 0x0003#16
  | .add _ _ | .adc _ _ | .cmpReg _ _ | .cmpImm4 _ _ | .cmpImm16 _ _ => 0x000F#16
  | .jmpr _ | .jmp _ _ | .nop | .halt => 0x0000#16

/-- R21: the general register an instruction writes. -/
def destination : Instr → Option Reg
  | .loadInd d _ | .loadImm4 d _ | .loadReg d _ | .loadImm16 d _ | .add d _ | .adc d _ | .land d _ | .lor d _
  | .lxor d _ | .lnot d => some d
  | .storeIndReg _ _ | .storeIndImm4 _ _ | .cmpReg _ _ | .cmpImm4 _ _ | .cmpImm16 _ _ | .jmpr _ | .jmp _ _
  | .nop | .halt => none

/-- R122: the formal OVERFLOW formula. -/
def addOverflow (op1 op2 r : Word) : Prop := ((~~~(op1 ^^^ op2)) &&& (op1 ^^^ r) &&& 0x8000#16) ≠ 0#16

/-- R124: OVERFLOW of a compare under each SUB_OVERFLOW_RULE. -/
def subOverflow (rule : SubOverflowRule) (op1 op2 r : Word) : Prop :=
  match rule with
  | .formulaAsWritten => ((~~~(op1 ^^^ op2)) &&& (op1 ^^^ r) &&& 0x8000#16) ≠ 0#16
  | .trueSigned => ((op1 ^^^ op2) &&& (op1 ^^^ r) &&& 0x8000#16) ≠ 0#16

/-- R9: a value outside the 16-bit two's-complement range. -/
def outsideSigned (x : Int) : Prop := x < -32768 ∨ 32767 < x

/-- R190 to R192: what a compare of `op1` with `op2` does. -/
def Compares (op1 op2 : Word) (s t : State) : Prop :=
  WritesFlagsOnly (op1 - op2) (op1.toNat < op2.toNat) (subOverflow s.cfg.subOverflowRule op1 op2 (op1 - op2)) s t

/-- R190, R191, R192: the operands `op1` and `op2` of an instruction, if it is one of the three compares. -/
def compareOperands (i : Instr) (s : State) : Option (Word × Word) :=
  match i with
  | .cmpReg acc reg => some (s.readReg acc, s.readReg reg)
  | .cmpImm4 acc imm => some (s.readReg acc, BitVec.ofNat 16 imm.toNat)
  | .cmpImm16 acc imm16 => some (s.readReg acc, imm16)
  | .nop | .halt | .loadInd _ _ | .loadImm4 _ _ | .loadReg _ _ | .loadImm16 _ _ | .storeIndReg _ _
  | .storeIndImm4 _ _ | .add _ _ | .adc _ _ | .lnot _ | .land _ _ | .lor _ _ | .lxor _ _ | .jmpr _ | .jmp _ _ => none

/-- R55: one access of a cycle, made only where its address exists. -/
def madeIfItExists (kind : AccessKind) (addr : Word) (s : State) : List Access :=
  if addr.toNat < s.cfg.memWords then [{ kind := kind, addr := addr }] else []

/-- R56, R55: the accesses of a running cycle, in order, written from the rule's table: the instruction fetch at PC; then, if that
was made, the operand fetch at PC + 1 of a two-word opcode, or the data read of LOAD ind, or the data write of a STORE. -/
def tableAccesses (s : State) : List Access :=
  let w := s.memRead s.pc
  if s.pc.toNat < s.cfg.memWords then
    { kind := .instructionFetch, addr := s.pc }
      :: ((if takesOperand (opcodeField w) then madeIfItExists .operandFetch (s.pc + 1#16) s else [])
        ++ match dataAddress w s with
          | some a => madeIfItExists (if opcodeField w = 0x00#8 then .dataRead else .dataWrite) a s
          | none => [])
  else []

end Sys2Proof.Claims

open Sys2Proof Sys2Proof.Machine Sys2Proof.Claims

/-! ## System instructions -/

/-- R140: NOP changes nothing; by R110 the fetch is all its cycle does. That every params byte is a NOP is the spec's
decision D9. -/
def Obligations.NopChangesNothing : Prop :=
  (∀ (p : Byte) (rest : List Word), decode (wordOfParams 0xFF p :: rest) = .ok (.nop, rest))
  ∧ ∀ s : State, Machine.exec .nop s = .next s

/-- R141: HALT sets FLAGS.HALT and writes nothing else; the fault record is kept (decision D7). That every params byte is a
HALT is decision D9. -/
def Obligations.HaltSetsOnlyTheHaltBit : Prop :=
  (∀ (p : Byte) (rest : List Word), decode (wordOfParams 0xF8 p :: rest) = .ok (.halt, rest))
  ∧ ∀ s : State, ∃ t, Machine.exec .halt s = .next t ∧ t.halted = true
      ∧ FlagsKeptBut 0x0100#16 s t ∧ RegsKept s t ∧ MemKept s t ∧ SpecialsKept s t ∧ t.pc = s.pc

/-! ## Loads -/

/-- R150, R156: LOAD ind loads the word at the register's address, with Z and N from it, or traps where the address does not
exist. That C and V are kept is decision D11; the state after the trap is decisions D6 and D8. -/
def Obligations.LoadIndLoadsOrTraps : Prop :=
  (∀ (h l : Reg) (rest : List Word), decode (word 0x00 (nib h) (nib l) :: rest) = .ok (.loadInd h l, rest))
  ∧ (∀ (h l : Reg) (s : State), (s.readReg l).toNat < s.cfg.memWords →
      ∃ t, Machine.exec (.loadInd h l) s = .next t ∧ WritesRegZN h (s.memRead (s.readReg l)) s t)
  ∧ ∀ (h l : Reg) (s : State), s.cfg.memWords ≤ (s.readReg l).toNat →
      ∃ t, Machine.exec (.loadInd h l) s = .next t
        ∧ TrapEntered .addressOutOfRange (s.readReg l) s t

/-- R151, R83: LOAD imm4 loads the nibble zero-extended (decision D10); C and V are kept (decision D11). -/
def Obligations.LoadImm4LoadsTheNibble : Prop :=
  (∀ (h : Reg) (i : Nibble) (rest : List Word), decode (word 0x01 (nib h) i :: rest) = .ok (.loadImm4 h i, rest))
  ∧ ∀ (h : Reg) (i : Nibble) (s : State),
      ∃ t, Machine.exec (.loadImm4 h i) s = .next t ∧ WritesRegZN h (BitVec.ofNat 16 i.toNat) s t ∧ t.flagN = false

/-- R152: LOAD reg copies a register and sets Z and N from it; C and V are kept (decision D11). -/
def Obligations.LoadRegCopiesTheRegister : Prop :=
  (∀ (h l : Reg) (rest : List Word), decode (word 0x02 (nib h) (nib l) :: rest) = .ok (.loadReg h l, rest))
  ∧ ∀ (h l : Reg) (s : State), ∃ t, Machine.exec (.loadReg h l) s = .next t ∧ WritesRegZN h (s.readReg l) s t

/-- R153, R84: LOAD imm16 loads the second word whole; L is ignored (decision D9); C and V are kept (decision D11). -/
def Obligations.LoadImm16LoadsTheSecondWord : Prop :=
  (∀ (h : Reg) (l : Nibble) (imm16 : Word) (rest : List Word),
      decode (word 0x03 (nib h) l :: imm16 :: rest) = .ok (.loadImm16 h imm16, rest))
  ∧ ∀ (h : Reg) (imm16 : Word) (s : State),
      ∃ t, Machine.exec (.loadImm16 h imm16) s = .next t ∧ WritesRegZN h imm16 s t

/-! ## Stores -/

/-- R154, R156: STORE ind(reg) stores rL at the address in rH, or traps where the address does not exist. Z and N from the
stored value are decision D12, C and V kept D11, the state after the trap D6 and D8. -/
def Obligations.StoreIndRegStoresOrTraps : Prop :=
  (∀ (h l : Reg) (rest : List Word), decode (word 0x10 (nib h) (nib l) :: rest) = .ok (.storeIndReg h l, rest))
  ∧ (∀ (h l : Reg) (s : State), (s.readReg h).toNat < s.cfg.memWords →
      ∃ t, Machine.exec (.storeIndReg h l) s = .next t ∧ WritesMemZN (s.readReg h) (s.readReg l) s t)
  ∧ ∀ (h l : Reg) (s : State), s.cfg.memWords ≤ (s.readReg h).toNat →
      ∃ t, Machine.exec (.storeIndReg h l) s = .next t
        ∧ TrapEntered .addressOutOfRange (s.readReg h) s t

/-- R155, R156, R83: STORE ind(imm4) stores the nibble H, zero-extended (decision D10), at the address in rL, or traps where
the address does not exist. Z and N from the stored value are decision D12, C and V kept D11, the state after the trap D6
and D8. -/
def Obligations.StoreIndImm4StoresOrTraps : Prop :=
  (∀ (i : Nibble) (l : Reg) (rest : List Word),
      decode (word 0x11 i (nib l) :: rest) = .ok (.storeIndImm4 i l, rest))
  ∧ (∀ (i : Nibble) (l : Reg) (s : State), (s.readReg l).toNat < s.cfg.memWords →
      ∃ t, Machine.exec (.storeIndImm4 i l) s = .next t
        ∧ WritesMemZN (s.readReg l) (BitVec.ofNat 16 i.toNat) s t)
  ∧ ∀ (i : Nibble) (l : Reg) (s : State), s.cfg.memWords ≤ (s.readReg l).toNat →
      ∃ t, Machine.exec (.storeIndImm4 i l) s = .next t
        ∧ TrapEntered .addressOutOfRange (s.readReg l) s t

/-! ## Arithmetic -/

/-- R170: ADD writes the truncated sum and all four condition flags, from the old values of both registers. -/
def Obligations.AddWritesTheSumAndFourFlags : Prop :=
  (∀ (h l : Reg) (rest : List Word), decode (word 0x20 (nib h) (nib l) :: rest) = .ok (.add h l, rest))
  ∧ ∀ (h l : Reg) (s : State),
      let a := s.readReg h
      let b := s.readReg l
      let r := BitVec.ofNat 16 (a.toNat + b.toNat)
      ∃ t, Machine.exec (.add h l) s = .next t
        ∧ WritesRegZNCV h r (a.toNat + b.toNat > 0xFFFF) (addOverflow a b r) s t

/-- R171: ADC under each value of ADC_RULE (the parameter, and which operands each value gives the flag computer, are
decision D13). Both registers and CARRY are read before the write (R114). -/
def Obligations.AdcAddsTheCarryUnderBothRules : Prop :=
  (∀ (h l : Reg) (rest : List Word), decode (word 0x21 (nib h) (nib l) :: rest) = .ok (.adc h l, rest))
  ∧ (∀ (h l : Reg) (s : State), s.cfg.adcRule = .incrementThenAdd →
      let op1 := s.readReg h + BitVec.ofNat 16 s.flagC.toNat
      let b := s.readReg l
      let r := BitVec.ofNat 16 (op1.toNat + b.toNat)
      ∃ t, Machine.exec (.adc h l) s = .next t
        ∧ WritesRegZNCV h r (op1.toNat + b.toNat > 0xFFFF) (addOverflow op1 b r) s t)
  ∧ ∀ (h l : Reg) (s : State), s.cfg.adcRule = .fullSum →
      let a := s.readReg h
      let b := s.readReg l
      let wide := a.toNat + b.toNat + s.flagC.toNat
      let r := BitVec.ofNat 16 wide
      ∃ t, Machine.exec (.adc h l) s = .next t
        ∧ WritesRegZNCV h r (wide > 0xFFFF) (addOverflow a b r) s t

/-- R171: both values of ADC_RULE give the same register, Z and N; C and V differ exactly when C was set and the accumulator
was 0xFFFF or 0x7FFF (decision D13's own account of the difference). -/
def Obligations.AdcRulesDifferOnlyAtTwoAccumulators : Prop :=
  ∀ (h l : Reg) (s : State),
    ∃ t1 t2, Machine.exec (.adc h l) { s with cfg := { s.cfg with adcRule := .incrementThenAdd } } = .next t1
      ∧ Machine.exec (.adc h l) { s with cfg := { s.cfg with adcRule := .fullSum } } = .next t2
      ∧ (∀ r, t1.readReg r = t2.readReg r) ∧ t1.flagZ = t2.flagZ ∧ t1.flagN = t2.flagN
      ∧ ((t1.flagC ≠ t2.flagC ∨ t1.flagV ≠ t2.flagV)
          ↔ s.flagC = true ∧ (s.readReg h = 0xFFFF#16 ∨ s.readReg h = 0x7FFF#16))

/-- R122 (a sentence the spec marks as derived from its formula): after ADD, V says exactly that the signed sum lies outside
−32768 to 32767. -/
def Obligations.AddOverflowIsSignedOverflow : Prop :=
  ∀ (h l : Reg) (s : State), ∃ t, Machine.exec (.add h l) s = .next t
    ∧ (t.flagV = true ↔ outsideSigned ((s.readReg h).toInt + (s.readReg l).toInt))

/-! ## Logic -/

/-- R180: NOT complements the register its low nibble names; H is ignored (decision D9); C and V are kept (decision D11). -/
def Obligations.NotComplementsTheLowRegister : Prop :=
  (∀ (h : Nibble) (l : Reg) (rest : List Word), decode (word 0x30 h (nib l) :: rest) = .ok (.lnot l, rest))
  ∧ ∀ (l : Reg) (s : State), ∃ t, Machine.exec (.lnot l) s = .next t
      ∧ WritesRegZN l (BitVec.ofNat 16 (0xFFFF - (s.readReg l).toNat)) s t

/-- R181, R182, R183: AND, OR and XOR write rH bit by bit and set Z and N from it; C and V are kept (decision D11). -/
def Obligations.AndOrXorWriteBitwiseResults : Prop :=
  (∀ (h l : Reg) (rest : List Word), decode (word 0x31 (nib h) (nib l) :: rest) = .ok (.land h l, rest)
      ∧ decode (word 0x32 (nib h) (nib l) :: rest) = .ok (.lor h l, rest)
      ∧ decode (word 0x33 (nib h) (nib l) :: rest) = .ok (.lxor h l, rest))
  ∧ ∀ (h l : Reg) (s : State),
      (∃ t, Machine.exec (.land h l) s = .next t ∧ WritesRegZN h (s.readReg h &&& s.readReg l) s t)
      ∧ (∃ t, Machine.exec (.lor h l) s = .next t ∧ WritesRegZN h (s.readReg h ||| s.readReg l) s t)
      ∧ ∃ t, Machine.exec (.lxor h l) s = .next t ∧ WritesRegZN h (s.readReg h ^^^ s.readReg l) s t

/-! ## Compare -/

/-- R190, R191, R192: the three compares write the four condition flags from `op1 − op2` and nothing else. CARRY as a borrow is
decision D14, the parameter of OVERFLOW D15, the zero-extended imm4 D10, the ignored L of CMP imm16 D9. -/
def Obligations.ComparesWriteOnlyFlags : Prop :=
  (∀ (h l : Reg) (rest : List Word), decode (word 0x40 (nib h) (nib l) :: rest) = .ok (.cmpReg h l, rest))
  ∧ (∀ (h : Reg) (i : Nibble) (rest : List Word), decode (word 0x41 (nib h) i :: rest) = .ok (.cmpImm4 h i, rest))
  ∧ (∀ (h : Reg) (l : Nibble) (imm16 : Word) (rest : List Word),
      decode (word 0x42 (nib h) l :: imm16 :: rest) = .ok (.cmpImm16 h imm16, rest))
  ∧ (∀ (h l : Reg) (s : State),
      ∃ t, Machine.exec (.cmpReg h l) s = .next t ∧ Compares (s.readReg h) (s.readReg l) s t)
  ∧ (∀ (h : Reg) (i : Nibble) (s : State),
      ∃ t, Machine.exec (.cmpImm4 h i) s = .next t ∧ Compares (s.readReg h) (BitVec.ofNat 16 i.toNat) s t)
  ∧ ∀ (h : Reg) (imm16 : Word) (s : State),
      ∃ t, Machine.exec (.cmpImm16 h imm16) s = .next t ∧ Compares (s.readReg h) imm16 s t

/-- R123 (decision D14): CARRY after each of the three compares is the CARRY rule of an addition applied to the difference widened
to any k ≥ 17 bits. The zero-extended imm4 is decision D10. -/
def Obligations.CompareCarryIsTheWidenedDifference : Prop :=
  ∀ (i : Instr) (s : State) (op1 op2 : Word) (k : Nat), compareOperands i s = some (op1, op2) → 17 ≤ k →
    ∃ t, Machine.exec i s = .next t
      ∧ (t.flagC = true ↔ ((op1.toNat : Int) - (op2.toNat : Int)) % (2 ^ k : Int) > 0xFFFF)

/-- R124 (decision D15): under `true_signed`, V after each of the three compares is the signed overflow of the subtraction, so N ≠ V
(the test of L, R201) is the signed "less". The zero-extended imm4 is decision D10. -/
def Obligations.TrueSignedCompareOrdersSigned : Prop :=
  ∀ (i : Instr) (s : State) (op1 op2 : Word), compareOperands i s = some (op1, op2) →
    s.cfg.subOverflowRule = .trueSigned →
    ∃ t, Machine.exec i s = .next t
      ∧ (t.flagV = true ↔ outsideSigned (op1.toInt - op2.toInt))
      ∧ ((t.flagN ≠ t.flagV) ↔ op1.toInt < op2.toInt)
      ∧ (t.flagZ = true ↔ op1 = op2)

/-- R124 (decision D15's own account): for each of the three compares, the two values of SUB_OVERFLOW_RULE give a different V
exactly when bit 15 of the difference differs from bit 15 of `op1`; no other bit of FLAGS differs. The zero-extended imm4 is decision
D10. -/
def Obligations.CompareRulesDifferByBit15 : Prop :=
  ∀ (i : Instr) (s : State) (op1 op2 : Word), compareOperands i s = some (op1, op2) →
    ∃ t1 t2, Machine.exec i { s with cfg := { s.cfg with subOverflowRule := .formulaAsWritten } } = .next t1
      ∧ Machine.exec i { s with cfg := { s.cfg with subOverflowRule := .trueSigned } } = .next t2
      ∧ (t1.flagV ≠ t2.flagV ↔ (op1 - op2).getLsbD 15 ≠ op1.getLsbD 15)
      ∧ t1.flags &&& 0xFFFB#16 = t2.flags &&& 0xFFFB#16

/-! ## Control -/

/-- R203, R85, R205: JMPR adds the signed params byte to the PC past its word, modulo 2^16 (decision D5), checks nothing, and
writes nothing else. -/
def Obligations.JmprMovesPcBySignedOffset : Prop :=
  (∀ (p : Byte) (rest : List Word), decode (wordOfParams 0x50 p :: rest) = .ok (.jmpr p.toInt, rest))
  ∧ ∀ (offset : Int) (s : State), ∃ t, Machine.exec (.jmpr offset) s = .next t
      ∧ (t.pc.toNat : Int) = ((s.pc.toNat : Int) + offset) % 65536
      ∧ t.flags = s.flags ∧ RegsKept s t ∧ MemKept s t ∧ SpecialsKept s t

/-- R204, R202, R205: JMP goes to its target if the condition holds, and otherwise leaves PC past the operand word, an undefined
condition included; it checks nothing and writes nothing else. H is ignored (decision D9); that an undefined condition has no
state effect is decision D17. -/
def Obligations.JmpGoesToItsTargetIfTheConditionHolds : Prop :=
  (∀ (h : Nibble) (c : CondCode) (target : Word) (rest : List Word),
      decode (word 0x51 h (nib c) :: target :: rest) = .ok (.jmp c target, rest))
  ∧ ∀ (c : CondCode) (target : Word) (s : State), ∃ t, Machine.exec (.jmp c target) s = .next t
      ∧ (s.evalCond c = some true → t.pc = target)
      ∧ (s.evalCond c = some false → t.pc = s.pc)
      ∧ (s.evalCond c = none → t.pc = s.pc)
      ∧ t.flags = s.flags ∧ RegsKept s t ∧ MemKept s t ∧ SpecialsKept s t

/-- R201: codes 0 and 1 under every COND_TABLE, which the source fixes; and every code under the default COND_TABLE, whose
numbers are decision D16, with each negation at the code 15 − c. -/
def Obligations.ConditionCodesTestTheFlags : Prop :=
  (∀ s : State, s.evalCond 0 = some true ∧ s.evalCond 1 = some s.flagZ)
  ∧ ∀ s : State, s.cfg.condTable = CondTable.specDefault →
      s.evalCond 2 = some s.flagC ∧ s.evalCond 3 = some (s.flagC || s.flagZ)
      ∧ s.evalCond 4 = some (s.flagN != s.flagV) ∧ s.evalCond 5 = some ((s.flagN != s.flagV) || s.flagZ)
      ∧ s.evalCond 6 = some s.flagN ∧ s.evalCond 7 = some s.flagV
      ∧ (∀ c : CondCode, 1 ≤ c.val → c.val ≤ 7 → s.evalCond (15 - c) = (s.evalCond c).map not)
      ∧ s.evalCond 15 = none

/-! ## Encoding -/

/-- Words written out bit by bit from R82 and R88, one of each format, decode to their instructions. -/
def Obligations.WrittenOutWordsDecode : Prop :=
  decode [0b1111111100000000#16] = .ok (.nop, [])
  ∧ decode [0b0010000000010010#16] = .ok (.add 1 2, [])
  ∧ decode [0b0100000100110101#16] = .ok (.cmpImm4 3 5#4, [])
  ∧ decode [0b0001000110010001#16] = .ok (.storeIndImm4 9#4 1, [])
  ∧ decode [0b0011000000000100#16] = .ok (.lnot 4, [])
  ∧ decode [0b0000001101010000#16, 0x0200#16] = .ok (.loadImm16 5 0x0200#16, [])
  ∧ decode [0b0101000011111010#16] = .ok (.jmpr (-6), [])
  ∧ decode [0b0101000100000001#16, 0x010A#16] = .ok (.jmp 1 0x010A#16, [])

/-- R82, R91: decoding the encoding of any well-formed instruction, with any words after it, gives the instruction and those
words. -/
def Obligations.DecodeOfEncodeIsTheInstruction : Prop :=
  ∀ (i : Instr) (rest : List Word), i.wellFormed = true → decode (encode i ++ rest) = .ok (i, rest)

/-- R80, R82, R87: whatever decodes, a one-word opcode that is the only word included, is a well-formed instruction, whose encoding
gives the words back with the ignored fields 0 (decisions D9, D24); decoding takes the words of that encoding and leaves the
others. -/
def Obligations.EncodeOfDecodeKeepsTheUsedBits : Prop :=
  ∀ (w : Word) (tail rest : List Word) (i : Instr), decode (w :: tail) = .ok (i, rest) →
    i.wellFormed = true
    ∧ (if takesOperand (opcodeField w) then ∃ x, tail = x :: rest ∧ encode i = [w &&& usedBits (opcodeField w), x]
       else tail = rest ∧ encode i = [w &&& usedBits (opcodeField w)])

/-- R87 (decision D9): the ignored fields change neither the instruction selected nor its operands. -/
def Obligations.IgnoredFieldsDoNotChangeDecoding : Prop :=
  ∀ (w w' : Word) (rest : List Word), opcodeField w = opcodeField w' →
    w &&& usedBits (opcodeField w) = w' &&& usedBits (opcodeField w) → decode (w :: rest) = decode (w' :: rest)

/-- R89 (decision D18): a word is rejected as illegal exactly when its opcode byte lies in the rule's ranges, whatever follows it,
and those ranges hold 237 bytes. -/
def Obligations.IllegalOpcodesAreTheListedRanges : Prop :=
  (∀ (w : Word) (rest : List Word),
      decode (w :: rest) = .error (.illegalOpcode (opcodeField w)) ↔ illegalByte (opcodeField w) = true)
  ∧ ((List.finRange 256).filter fun b => illegalByte (BitVec.ofFin b)).length = 237

/-! ## The cycle -/

/-- R110, R112, R113, R116: where the words at PC decode to an instruction, a running cycle is the execute step of it, in the state
with IR written and PC past its words. -/
def Obligations.StepRunsTheDecodedInstruction : Prop :=
  ∀ (s : State) (i : Instr) (rest : List Word), s.running → decode s.fetchWindow = .ok (i, rest) →
    step s = Machine.exec i { s with ir := s.memRead s.pc, pc := s.pc + BitVec.ofNat 16 i.words }

/-- R117 (marked derived; the arithmetic modulo 2^16 is decision D5): PC after the cycle of each instruction. R117 speaks of cycles that
raise no trap. Where a LOAD ind or a STORE traps on its data address, PC is one past the word too, by R233 and R234 (decisions D6
and D8). -/
def Obligations.PcAdvancesPerInstruction : Prop :=
  ∀ (s : State) (i : Instr) (rest : List Word), s.running → decode s.fetchWindow = .ok (i, rest) →
    ∃ t, step s = .next t
      ∧ t.pc = (match i with
          | .jmpr offset => s.pc + 1#16 + BitVec.ofInt 16 offset
          | .jmp c target => if s.evalCond c = some true then target else s.pc + 2#16
          | .loadImm16 _ _ | .cmpImm16 _ _ => s.pc + 2#16
          | _ => s.pc + 1#16)

/-- R111: a `run_once` entered while HALTED changes nothing and emits no trace record, however often it is called. -/
def Obligations.HaltedCyclesChangeNothing : Prop :=
  ∀ (s : State), s.resetDone = true → s.halted = true →
    (∀ k : Nat, core.run k s = .next s) ∧ s.traceRecord = none

/-- R263, R35 (decision D4): a `run_once` before the first `reset` is refused, right after construction in particular. -/
def Obligations.RunBeforeResetIsRefused : Prop :=
  (∀ s : State, s.resetDone = false → step s = .refused .runBeforeReset)
  ∧ ∀ (cfg : Config) (m : Memory) (power : State), step (State.construct cfg m power) = .refused .runBeforeReset

/-- R112, R234 (decisions D6, D8): an instruction fetch at PC ≥ N traps, with IR and PC as they were. -/
def Obligations.FetchOutOfRangeTraps : Prop :=
  ∀ s : State, s.running → s.cfg.memWords ≤ s.pc.toNat →
    ∃ t, step s = .next t ∧ TrapEntered .addressOutOfRange s.pc s t

/-- R113, R234 (decisions D6, D8): an operand-word fetch at an address that does not exist traps, with IR written and PC one past
the instruction word. -/
def Obligations.OperandFetchOutOfRangeTraps : Prop :=
  ∀ s : State, s.running → s.pc.toNat < s.cfg.memWords →
    takesOperand (opcodeField (s.memRead s.pc)) = true → s.cfg.memWords ≤ (s.pc + 1#16).toNat →
    ∃ t, step s = .next t
      ∧ TrapEntered .addressOutOfRange (s.pc + 1#16) { s with ir := s.memRead s.pc, pc := s.pc + 1#16 } t

/-- R142, R232, R233 (decisions D7, D8, D18): an illegal opcode traps, with its address in the fault record, IR written and PC one
past it; no operand word is fetched. -/
def Obligations.IllegalOpcodeTraps : Prop :=
  ∀ s : State, s.running → s.pc.toNat < s.cfg.memWords → illegalByte (opcodeField (s.memRead s.pc)) = true →
    ∃ t, step s = .next t
      ∧ TrapEntered .illegalOpcode s.pc { s with ir := s.memRead s.pc, pc := s.pc + 1#16 } t

/-- R235 (decision D26), R231: every running cycle has a next state, and the fault record after it is that of the first check in
cycle order that fails, and is kept if none does. -/
def Obligations.FirstFailingCheckIsRecorded : Prop :=
  ∀ s : State, s.running → ∃ t, step s = .next t
    ∧ t.faultRecord =
      (if s.cfg.memWords ≤ s.pc.toNat then (.addressOutOfRange, s.pc)
       else if illegalByte (opcodeField (s.memRead s.pc)) then (.illegalOpcode, s.pc)
       else if takesOperand (opcodeField (s.memRead s.pc)) = true ∧ s.cfg.memWords ≤ (s.pc + 1#16).toNat then
         (.addressOutOfRange, s.pc + 1#16)
       else match dataAddress (s.memRead s.pc) s with
         | some a => if s.cfg.memWords ≤ a.toNat then (.addressOutOfRange, a) else s.faultRecord
         | none => s.faultRecord)

/-- R115: what a cycle commits. Without a trap: at most one general register, at most one memory word (that of the STORE, if it is
one), condition flags only (or HALT, for HALT only). With a trap: the fetch effects that had already happened and the trap
entry, and none of the execute step's writes. That AddressOutOfRange halts, on fetches too, is decision D6, and the PC and IR after a
failed fetch are decision D8 (R112, R113, R233). The premise that no fault is recorded yet holds of every running state that a
run reaches (InvIsKeptByEveryStep). -/
def Obligations.CyclesCommitWholeOrTrapClean : Prop :=
  ∀ s t : State, s.running → s.faultCause = .none → step s = .next t →
    (t.faultCause = .none →
      (∃ d, RegsKeptBut d s t)
      ∧ (match s.cycleStore with
         | some (a, v) => t.memRead a = v ∧ MemKeptBut a s t
         | none => MemKept s t)
      ∧ ((t.halted = false ∧ FlagsKeptBut 0x000F#16 s t)
          ∨ (opcodeField (s.memRead s.pc) = 0xF8#8 ∧ t.halted = true ∧ FlagsKeptBut 0x0100#16 s t))
      ∧ t.sp = s.sp ∧ t.spx = s.spx ∧ t.faultAddr = s.faultAddr ∧ t.ir = s.memRead s.pc)
    ∧ (t.faultCause ≠ .none →
      t.halted = true ∧ RegsKept s t ∧ MemKept s t ∧ FlagsKeptBut 0x0100#16 s t ∧ t.sp = s.sp ∧ t.spx = s.spx
      ∧ (s.pc.toNat < s.cfg.memWords → t.ir = s.memRead s.pc ∧ t.pc = s.pc + 1#16)
      ∧ (s.cfg.memWords ≤ s.pc.toNat → t.ir = s.ir ∧ t.pc = s.pc))

/-- R26 (decision D6 for the AddressOutOfRange trap): a running cycle ends HALTED exactly when it ran a HALT instruction or took a
trap. -/
def Obligations.OnlyHaltAndTrapsHalt : Prop :=
  ∀ s t : State, s.running → s.faultCause = .none → step s = .next t →
    (t.halted = true
      ↔ (s.pc.toNat < s.cfg.memWords ∧ opcodeField (s.memRead s.pc) = 0xF8#8) ∨ t.faultCause ≠ .none)

/-- R25 (that unlisted flags are kept is decision D11), R28: every instruction writes at most the condition flags of its row, and
only HALT or a trap writes the HALT bit. -/
def Obligations.FlagsWrittenAreThoseOfTheTable : Prop :=
  ∀ (i : Instr) (s : State), ∃ t, Machine.exec i s = .next t
    ∧ FlagsKeptBut (condMask i ||| 0x0100#16) s t
    ∧ (s.faultCause = .none → t.halted ≠ s.halted → i = .halt ∨ t.faultCause ≠ .none)

/-- R21 (marked derived): every instruction writes at most the one general register that the rule names for it. -/
def Obligations.OnlyTheDestinationRegisterIsWritten : Prop :=
  ∀ (i : Instr) (s t : State), Machine.exec i s = .next t →
    match destination i with
    | some d => RegsKeptBut d s t
    | none => RegsKept s t

/-- R29, R27 (decisions D27, D28): no cycle writes SP, SPX, or a bit of FLAGS other than Z, N, V, C and HALT. -/
def Obligations.ReservedStateIsNeverDriven : Prop :=
  ∀ s t : State, step s = .next t →
    t.sp = s.sp ∧ t.spx = s.spx ∧ t.flags &&& 0xFEF0#16 = s.flags &&& 0xFEF0#16

/-! ## Memory -/

/-- R54: the write port sets the word at its address and changes no other address, and nothing but memory; and a cycle stores
only where InRange holds of the address. -/
def Obligations.MemWriteChangesOneWord : Prop :=
  (∀ (s : State) (a v : Word), (s.memWrite a v).memRead a = v ∧ MemKeptBut a s (s.memWrite a v)
    ∧ { s.memWrite a v with mem := s.mem } = s)
  ∧ ∀ (s : State) (a v : Word), s.cycleStore = some (a, v) → a.toNat < s.cfg.memWords

/-- R51: of the operations, only a `run_once` that stores and `loadmem` write memory, and none changes its capacity. -/
def Obligations.OnlyStoresAndLoadmemWriteMemory : Prop :=
  (∀ s t : State, step s = .next t →
      (∀ a, t.mem.read a = match s.cycleStore with
        | some (b, v) => if a = b.toNat then v else s.mem.read a
        | none => s.mem.read a)
      ∧ (s.cycleStore.isSome = true →
          opcodeField (s.memRead s.pc) = 0x10#8 ∨ opcodeField (s.memRead s.pc) = 0x11#8))
  ∧ (∀ s : State, s.resetOp.mem = s.mem)
  ∧ ∀ (op : HostOp) (s t : State), applyHost op s = .next t → t.cfg = s.cfg

/-- R60 (nothing where start ≥ N: decision D21): `loadmem` copies min(length, N − start) words, drops the rest, wraps nothing, and
writes nothing but memory. Words past the end of the buffer are not copied (notes/assumptions/6.md). -/
def Obligations.LoadmemCopiesAndTruncates : Prop :=
  ∀ (s : State) (buffer : List Word) (length start a : Nat),
    (s.loadmem buffer length start).mem.read a
      = (if start ≤ a ∧ a - start < length ∧ a < s.cfg.memWords then (buffer[a - start]?).getD (s.mem.read a)
         else s.mem.read a)
    ∧ { s.loadmem buffer length start with mem := s.mem } = s

/-- R62: after any sequence of host operations, every word of memory is the one last written there, by a STORE or by a `loadmem`,
and is the word it was at the start if there was none. -/
def Obligations.MemoryHoldsTheLastWrite : Prop :=
  ∀ (ops : List HostOp) (s t : State) (a : Nat), runHost ops s = .next t →
    t.mem.read a = (lastWrite (writeLog ops s) a).getD (s.mem.read a)

/-- R64 (marked derived): a word stored by one cycle is the word the next cycle fetches at that address. -/
def Obligations.NextFetchSeesTheStore : Prop :=
  ∀ (s t : State) (a v : Word), s.running → step s = .next t → s.cycleStore = some (a, v) → t.pc = a →
    t.running ∧ ∃ u, step t = .next u ∧ u.ir = v

/-- R56 (marked derived), R55 (decision D6 for fetches): a running cycle makes exactly the accesses of R56's table, in its order, and
a cycle that is refused or entered HALTED (R111) makes none. So every access is to an address that exists, the first is the
instruction fetch at PC, and there are at most two, one of them of data; and the data write is that of the word the cycle stores
(what a step writes: OnlyStoresAndLoadmemWriteMemory; what it reads: CyclesReadOnlyTheirAccesses). -/
def Obligations.AccessesExistAndComeInOrder : Prop :=
  ∀ s : State, (s.running → s.accesses = tableAccesses s)
    ∧ (¬ s.running → s.accesses = [])
    ∧ (∀ x ∈ s.accesses, x.addr.toNat < s.cfg.memWords)
    ∧ (∀ x, s.accesses.head? = some x → x = { kind := .instructionFetch, addr := s.pc })
    ∧ ((s.accesses.filter fun x => x.kind = .dataRead ∨ x.kind = .dataWrite).length ≤ 1)
    ∧ s.accesses.length ≤ 2
    ∧ ∀ a, { kind := .dataWrite, addr := a } ∈ s.accesses ↔ ∃ v, s.cycleStore = some (a, v)

/-- R56 (marked derived), R53, R58: what a cycle does depends on memory only through the words it reads. If another memory has the
same words at the addresses of the cycle's read accesses, the cycle from it ends in the same state but for memory, and each
word of memory is either the same on both sides or is the one that stood there before. -/
def Obligations.CyclesReadOnlyTheirAccesses : Prop :=
  ∀ (s t : State) (m : Memory), step s = .next t →
    (∀ x ∈ s.accesses, x.kind ≠ .dataWrite → m.read x.addr.toNat = s.mem.read x.addr.toNat) →
    ∃ u, step { s with mem := m } = .next u ∧ { u with mem := t.mem } = t
      ∧ ∀ a, u.mem.read a = t.mem.read a ∨ (u.mem.read a = m.read a ∧ t.mem.read a = s.mem.read a)

/-- The model's own (notes/assumptions/1.md): in the canonical form, memories that read alike are equal data. -/
def Obligations.CanonicalMemoriesReadingAlikeAreEqual : Prop :=
  ∀ m n : Memory, m.wf → n.wf → (∀ a, m.read a = n.read a) → m = n

/-! ## Reset and the host's interface -/

/-- R34, R260 (the fault record: decision D7): what `reset` writes, and that State.reset holds those values. IR is in no clause (R30:
unspecified). That State.reset lists no memory, has the default parameters and counts as reset is the model's choice
(notes/assumptions/2.md, 4.md and 5.md). -/
def Obligations.ResetWritesTheResetValues : Prop :=
  (∀ s : State, (∀ r, s.resetOp.readReg r = 0x0000#16) ∧ s.resetOp.flags = 0x0000#16 ∧ s.resetOp.sp = 0x0000#16
      ∧ s.resetOp.spx = 0x0000#16 ∧ s.resetOp.pc = 0x0100#16 ∧ s.resetOp.faultRecord = (.none, 0x0000#16)
      ∧ s.resetOp.mem = s.mem ∧ s.resetOp.cfg = s.cfg)
  ∧ ∀ s : State, { s.resetOp with ir := State.reset.ir, mem := [], cfg := Config.specDefault } = State.reset

/-- R261: `reset` gives the same state each time, given the same memory (and capacity; IR aside, which R30 leaves unspecified), leaves
memory and capacity unchanged, and is the only operation that takes a HALTED block back to RUNNING. -/
def Obligations.OnlyResetReturnsToRunning : Prop :=
  (∀ s : State, s.resetOp.running ∧ s.resetOp.mem = s.mem ∧ s.resetOp.cfg = s.cfg)
  ∧ (∀ s s' : State, s.mem = s'.mem → s.cfg = s'.cfg → { s.resetOp with ir := 0#16 } = { s'.resetOp with ir := 0#16 })
  ∧ ∀ (op : HostOp) (s t : State), applyHost op s = .next t → s.halted = true → t.halted = false → op = .reset

/-- R262: after `reset` the block is RUNNING, and the first `run_once` fetches the instruction at 0x0100. -/
def Obligations.FirstCycleFetchesAtTheEntryPoint : Prop :=
  ∀ s : State, s.resetOp.running ∧
    (0x0100 < s.cfg.memWords → ∃ t, step s.resetOp = .next t ∧ t.ir = s.mem.read 0x0100)

/-- R44 (decision D20): a trace record is emitted exactly by a running cycle whose instruction fetch succeeds, with PC at the start of
the cycle, the word written to IR, and its two bytes; a cycle without a record leaves IR as it was. -/
def Obligations.TraceRecordTellsTheFetch : Prop :=
  ∀ s t : State, step s = .next t →
    (s.traceRecord.isSome = true ↔ s.running ∧ s.pc.toNat < s.cfg.memWords)
    ∧ (∀ r, s.traceRecord = some r → r.pcBefore = s.pc ∧ r.fetchedWord = t.ir
        ∧ r.opcode.toNat = t.ir.toNat / 256 ∧ r.params.toNat = t.ir.toNat % 256)
    ∧ (s.traceRecord = none → t.ir = s.ir)

/-- The model's own (notes/assumptions/8.md): the state withFetchWord makes runs the instruction that its bits decode to, at the next
step, and differs from the given state in the words at PC, HALT and the reset mark only. -/
def Obligations.PlacedWordsRunAtTheNextStep : Prop :=
  ∀ (s : State) (nbits w : Nat) (i : Instr), s.pc.toNat < s.cfg.memWords → (s.pc + 1#16).toNat < s.cfg.memWords →
    decodeTableWord nbits w = some i →
    let p := s.withFetchWord nbits w
    step p = Machine.exec i { p with ir := BitVec.ofNat 16 (w % 2 ^ nbits), pc := s.pc + BitVec.ofNat 16 i.words }
    ∧ { p with mem := s.mem, flags := s.flags, resetDone := s.resetDone } = s
    ∧ p.flags = s.flags &&& 0xFEFF#16
    ∧ ∀ a, a ≠ s.pc.toNat → a ≠ (s.pc + 1#16).toNat → p.mem.read a = s.mem.read a

/-! ## The invariant -/

/-- The invariant of Safety.lean (R7, R27, R29, R31, R50, R231, R263) holds right after reset, in State.reset, whose memory, parameters
and reset mark are the model's choice (notes/assumptions/2.md, 4.md and 5.md). -/
def Obligations.InvHoldsAtReset : Prop := State.reset.Inv

/-- Every step from a state of the invariant has a next state, and the invariant holds there: FLAGS' reserved bits, SP and SPX stay 0,
memory stays canonical and within its capacity, and the fault record stays true (its layout and the state after a trap:
decisions D6, D7, D8, D28). -/
def Obligations.InvIsKeptByEveryStep : Prop :=
  ∀ s : State, s.Inv → ∃ t, step s = .next t ∧ t.Inv

/-- R40, R60, R261, R263: from construction with any legal capacity, any parameters, any memory and any register contents, a reset and then
any sequence of host operations, `loadmem` between cycles included, is never refused and ends in a state of the invariant. -/
def Obligations.InvHoldsAfterAnyHostOperations : Prop :=
  ∀ (cfg : Config) (m : Memory) (power : State) (ops : List HostOp),
    cfg.wf → m.wf → m.within cfg.memWords →
    ∃ t, runHost (.reset :: ops) (State.construct cfg m power) = .next t ∧ t.Inv

/-- Every host operation, a `reset` and any `loadmem` as well as a cycle, has a next state from every state of the invariant, and the
invariant holds there (R40, R60, R260; decisions D6, D7, D8, D21, D28; the form of memory: notes/assumptions/1.md). -/
def Obligations.InvIsKeptByEveryHostOperation : Prop :=
  ∀ (op : HostOp) (s : State), s.Inv → ∃ t, applyHost op s = .next t ∧ t.Inv
end

