-- ==== Sys2Proof/Laws/Decode.lean ====
section
/-! SUPPORT. The fields of a word that was put together from fields (R81). -/

namespace Sys2Proof

@[simp] theorem opcodeField_append (op p : Byte) : opcodeField (op ++ p : BitVec (8 + 8)) = op := by
  apply BitVec.eq_of_getLsbD_eq
  intro i hi
  simp only [opcodeField, BitVec.getLsbD_extractLsb', BitVec.getLsbD_append, hi, decide_true,
    Bool.true_and]
  rw [if_neg (by omega)]; congr 1; omega

@[simp] theorem paramsField_append (op p : Byte) : paramsField (op ++ p : BitVec (8 + 8)) = p := by
  apply BitVec.eq_of_getLsbD_eq
  intro i hi
  simp only [paramsField, BitVec.getLsbD_extractLsb', BitVec.getLsbD_append, hi, decide_true,
    Bool.true_and]
  rw [if_pos (by omega)]; congr 1; omega

theorem instrWord_eq (op : Byte) (h l : Nibble) :
    instrWord op h l = (op ++ (h ++ l : BitVec (4 + 4)) : BitVec (8 + 8)) := by
  apply BitVec.eq_of_getLsbD_eq
  intro i hi
  show (op ++ h ++ l : BitVec (8 + 4 + 4)).getLsbD i = _
  simp only [BitVec.getLsbD_append]
  split
  · rw [if_pos (by omega)]
  · split
    · rw [if_pos (by omega)]
    · rw [if_neg (by omega)]; rfl

@[simp] theorem opcodeField_instrWord (op : Byte) (h l : Nibble) : opcodeField (instrWord op h l) = op := by
  rw [instrWord_eq]; exact opcodeField_append op _

@[simp] theorem highNibble_instrWord (op : Byte) (h l : Nibble) : highNibble (instrWord op h l) = h := by
  apply BitVec.eq_of_getLsbD_eq
  intro i hi
  simp only [highNibble, instrWord, BitVec.getLsbD_extractLsb', BitVec.getLsbD_append, hi, decide_true,
    Bool.true_and]
  rw [if_neg (by omega), if_pos (by omega)]; congr 1; omega

@[simp] theorem lowNibble_instrWord (op : Byte) (h l : Nibble) : lowNibble (instrWord op h l) = l := by
  apply BitVec.eq_of_getLsbD_eq
  intro i hi
  simp only [lowNibble, instrWord, BitVec.getLsbD_extractLsb', BitVec.getLsbD_append, hi, decide_true,
    Bool.true_and]
  rw [if_pos (by omega)]; congr 1; omega

end Sys2Proof
end

