-- ==== Sys2Proof/Laws/Flags.lean ====
section
/-! SUPPORT. What the flag computer writes and what it keeps, bit by bit. -/

namespace Sys2Proof.Machine

theorem writeFlags_getLsbD (mask new f : Word) {i : Nat} (h : i < 16) :
    (writeFlags mask new f).getLsbD i = if mask.getLsbD i then new.getLsbD i else f.getLsbD i := by
  simp only [writeFlags, BitVec.getLsbD_or, BitVec.getLsbD_and, BitVec.getLsbD_not]
  cases mask.getLsbD i <;> simp [h]

/-- R28: the bits outside the mask keep their value. -/
theorem writeFlags_outside (mask new f keep : Word) (h : mask &&& keep = 0#16) :
    writeFlags mask new f &&& keep = f &&& keep := by
  apply BitVec.eq_of_getLsbD_eq
  intro i hi
  have hb : (mask &&& keep).getLsbD i = false := by rw [h]; simp
  rw [BitVec.getLsbD_and] at hb
  rw [BitVec.getLsbD_and, BitVec.getLsbD_and, writeFlags_getLsbD mask new f hi]
  cases hm : mask.getLsbD i <;> cases hk : keep.getLsbD i <;> simp_all

@[simp] theorem zeroBit_packCond (z n v c : Bool) : zeroBit (packCond z n v c) = z := by
  revert z n v c; decide
@[simp] theorem negativeBit_packCond (z n v c : Bool) : negativeBit (packCond z n v c) = n := by
  revert z n v c; decide
@[simp] theorem overflowBit_packCond (z n v c : Bool) : overflowBit (packCond z n v c) = v := by
  revert z n v c; decide
@[simp] theorem carryBit_packCond (z n v c : Bool) : carryBit (packCond z n v c) = c := by
  revert z n v c; decide

/-! ## SetZN (R120) -/

@[simp] theorem zeroBit_flagsZN (r f : Word) : zeroBit (flagsZN r f) = zeroOf r := by
  rw [zeroBit, flagsZN, writeFlags_getLsbD _ _ _ (by decide)]
  exact zeroBit_packCond (zeroOf r) (negativeOf r) false false
@[simp] theorem negativeBit_flagsZN (r f : Word) : negativeBit (flagsZN r f) = negativeOf r := by
  rw [negativeBit, flagsZN, writeFlags_getLsbD _ _ _ (by decide)]
  exact negativeBit_packCond (zeroOf r) (negativeOf r) false false
@[simp] theorem overflowBit_flagsZN (r f : Word) : overflowBit (flagsZN r f) = overflowBit f := by
  rw [overflowBit, flagsZN, writeFlags_getLsbD _ _ _ (by decide)]; rfl
@[simp] theorem carryBit_flagsZN (r f : Word) : carryBit (flagsZN r f) = carryBit f := by
  rw [carryBit, flagsZN, writeFlags_getLsbD _ _ _ (by decide)]; rfl
@[simp] theorem haltBit_flagsZN (r f : Word) : haltBit (flagsZN r f) = haltBit f := by
  rw [haltBit, flagsZN, writeFlags_getLsbD _ _ _ (by decide)]; rfl

/-- R28: SetZN keeps every bit outside ZERO and NEGATIVE. -/
theorem flagsZN_outside (r f keep : Word) (h : maskZN &&& keep = 0#16) :
    flagsZN r f &&& keep = f &&& keep := writeFlags_outside _ _ _ _ h

/-! ## SetZN with CARRY and OVERFLOW (R122, R123) -/

@[simp] theorem zeroBit_flagsZNCV (r : Word) (c v : Bool) (f : Word) :
    zeroBit (flagsZNCV r c v f) = zeroOf r := by
  rw [zeroBit, flagsZNCV, writeFlags_getLsbD _ _ _ (by decide)]
  exact zeroBit_packCond (zeroOf r) (negativeOf r) v c
@[simp] theorem negativeBit_flagsZNCV (r : Word) (c v : Bool) (f : Word) :
    negativeBit (flagsZNCV r c v f) = negativeOf r := by
  rw [negativeBit, flagsZNCV, writeFlags_getLsbD _ _ _ (by decide)]
  exact negativeBit_packCond (zeroOf r) (negativeOf r) v c
@[simp] theorem overflowBit_flagsZNCV (r : Word) (c v : Bool) (f : Word) :
    overflowBit (flagsZNCV r c v f) = v := by
  rw [overflowBit, flagsZNCV, writeFlags_getLsbD _ _ _ (by decide)]
  exact overflowBit_packCond (zeroOf r) (negativeOf r) v c
@[simp] theorem carryBit_flagsZNCV (r : Word) (c v : Bool) (f : Word) :
    carryBit (flagsZNCV r c v f) = c := by
  rw [carryBit, flagsZNCV, writeFlags_getLsbD _ _ _ (by decide)]
  exact carryBit_packCond (zeroOf r) (negativeOf r) v c
@[simp] theorem haltBit_flagsZNCV (r : Word) (c v : Bool) (f : Word) :
    haltBit (flagsZNCV r c v f) = haltBit f := by
  rw [haltBit, flagsZNCV, writeFlags_getLsbD _ _ _ (by decide)]; rfl

/-- R28: the flag computer keeps every bit outside FLAGS_COND. -/
theorem flagsZNCV_outside (r : Word) (c v : Bool) (f keep : Word) (h : maskCond &&& keep = 0#16) :
    flagsZNCV r c v f &&& keep = f &&& keep := writeFlags_outside _ _ _ _ h

/-! ## HALT (R26) -/

@[simp] theorem haltBit_or_maskHalt (f : Word) : haltBit (f ||| maskHalt) = true := by
  rw [haltBit, BitVec.getLsbD_or, show maskHalt.getLsbD 8 = true from rfl, Bool.or_true]

/-- R26: setting HALT keeps every other bit. -/
theorem or_maskHalt_outside (f keep : Word) (h : maskHalt &&& keep = 0#16) :
    (f ||| maskHalt) &&& keep = f &&& keep := by
  apply BitVec.eq_of_getLsbD_eq
  intro i hi
  have hb : (maskHalt &&& keep).getLsbD i = false := by rw [h]; simp
  rw [BitVec.getLsbD_and] at hb
  rw [BitVec.getLsbD_and, BitVec.getLsbD_and, BitVec.getLsbD_or]
  cases hm : maskHalt.getLsbD i <;> cases hk : keep.getLsbD i <;> simp_all

theorem zeroOf_iff (r : Word) : zeroOf r = true ↔ r = 0#16 := by simp [zeroOf]

theorem carryOfSum_iff (w : Nat) : carryOfSum w = true ↔ w > 0xFFFF := by simp [carryOfSum]

theorem borrowOf_iff (a b : Word) : borrowOf a b = true ↔ a.toNat < b.toNat := by simp [borrowOf]

end Sys2Proof.Machine
end

