-- ==== Sys2Proof/Laws/Memory.lean ====
section
/-! SUPPORT. The laws of the word memory: a read after a write, and that every operation keeps the canonical form and the
capacity. -/

namespace Sys2Proof.Machine

@[simp] theorem Memory.read_nil (a : Nat) : Memory.read [] a = unlistedWord := rfl

theorem Memory.read_eq_unlisted {m : Memory} {a : Nat} (h : ∀ c ∈ m, c.1 ≠ a) :
    m.read a = unlistedWord := by
  induction m with
  | nil => rfl
  | cons c rest ih =>
    have hc : a ≠ c.1 := fun e => h c (by simp) e.symm
    simp only [Memory.read, if_neg hc]
    exact ih fun d hd => h d (by simp [hd])

theorem Memory.mem_erase {m : Memory} {a : Nat} {c : Cell} : c ∈ m.erase a ↔ c ∈ m ∧ c.1 ≠ a := by
  simp [Memory.erase]

theorem Memory.read_erase (m : Memory) (a b : Nat) :
    (m.erase a).read b = if b = a then unlistedWord else m.read b := by
  induction m with
  | nil => simp [Memory.erase]
  | cons c rest ih =>
    obtain ⟨k, w⟩ := c
    simp only [Memory.erase, List.filter_cons] at ih ⊢
    by_cases hk : k = a
    · subst hk
      simp only [bne_self_eq_false, Bool.false_eq_true, if_false, ih, Memory.read]
      split <;> rfl
    · have : (k != a) = true := by simpa using hk
      simp only [this, if_true, Memory.read, ih]
      by_cases hb : b = k
      · subst hb; simp [hk]
      · simp [hb]

theorem Memory.mem_insert {m : Memory} {a : Nat} {v : Word} {c : Cell} :
    c ∈ m.insert a v ↔ c = (a, v) ∨ c ∈ m := by
  induction m with
  | nil => simp [Memory.insert]
  | cons d rest ih =>
    obtain ⟨k, w⟩ := d
    simp only [Memory.insert]
    split
    · simp
    · simp only [List.mem_cons, ih]; tauto

theorem Memory.read_insert {m : Memory} {a : Nat} (v : Word) (b : Nat) (h : ∀ c ∈ m, c.1 ≠ a) :
    (m.insert a v).read b = if b = a then v else m.read b := by
  induction m with
  | nil => simp [Memory.insert, Memory.read]
  | cons d rest ih =>
    obtain ⟨k, w⟩ := d
    have hk : k ≠ a := h (k, w) (by simp)
    simp only [Memory.insert]
    split
    · simp only [Memory.read]
    · simp only [Memory.read, ih fun c hc => h c (by simp [hc])]
      by_cases hb : b = k
      · subst hb; simp [hk]
      · simp [hb]

/-- R54: a write sets the word at its address and no other. -/
@[simp] theorem Memory.read_write (m : Memory) (a : Nat) (v : Word) (b : Nat) :
    (m.write a v).read b = if b = a then v else m.read b := by
  unfold Memory.write
  split
  · rename_i hv; rw [Memory.read_erase, hv]
  · rw [Memory.read_insert v b fun c hc => (Memory.mem_erase.mp hc).2, Memory.read_erase]
    split <;> simp_all

theorem Memory.insert_sorted {m : Memory} {a : Nat} (v : Word) (hs : m.Pairwise fun c d => c.1 < d.1)
    (ha : ∀ c ∈ m, c.1 ≠ a) : (m.insert a v).Pairwise fun c d => c.1 < d.1 := by
  induction m with
  | nil => simp [Memory.insert]
  | cons d rest ih =>
    obtain ⟨k, w⟩ := d
    obtain ⟨hk, hr⟩ := List.pairwise_cons.mp hs
    simp only [Memory.insert]
    split
    · rename_i hlt
      refine List.pairwise_cons.mpr ⟨?_, hs⟩
      intro c hc
      rcases List.mem_cons.mp hc with rfl | hc
      · exact hlt
      · exact hlt.trans (hk c hc)
    · rename_i hge
      refine List.pairwise_cons.mpr ⟨?_, ih hr fun c hc => ha c (by simp [hc])⟩
      intro c hc
      have hne : k ≠ a := ha (k, w) (by simp)
      rcases Memory.mem_insert.mp hc with rfl | hc
      · show k < a; omega
      · exact hk c hc

/-- A write keeps the canonical form. -/
theorem Memory.write_wf {m : Memory} (a : Nat) (v : Word) (h : m.wf) : (m.write a v).wf := by
  have he : (m.erase a).wf :=
    ⟨h.1.filter _, fun c hc => h.2 c (Memory.mem_erase.mp hc).1⟩
  unfold Memory.write
  split
  · exact he
  · rename_i hv
    refine ⟨Memory.insert_sorted v he.1 fun c hc => (Memory.mem_erase.mp hc).2, ?_⟩
    intro c hc
    rcases Memory.mem_insert.mp hc with rfl | hc
    · exact hv
    · exact he.2 c hc

/-- A write below the capacity keeps every cell below it. -/
theorem Memory.write_within {m : Memory} {n a : Nat} (v : Word) (h : m.within n) (ha : a < n) :
    (m.write a v).within n := by
  unfold Memory.write
  split
  · exact fun c hc => h c (Memory.mem_erase.mp hc).1
  · intro c hc
    rcases Memory.mem_insert.mp hc with rfl | hc
    · exact ha
    · exact h c (Memory.mem_erase.mp hc).1

theorem Memory.writeList_wf {m : Memory} (a : Nat) (vs : List Word) (h : m.wf) :
    (m.writeList a vs).wf := by
  induction vs generalizing m a with
  | nil => exact h
  | cons v rest ih => exact ih (a + 1) (Memory.write_wf a v h)

theorem Memory.writeList_within {m : Memory} {n a : Nat} (vs : List Word) (h : m.within n)
    (ha : a + vs.length ≤ n) : (m.writeList a vs).within n := by
  induction vs generalizing m a with
  | nil => exact h
  | cons v rest ih =>
    simp only [List.length_cons] at ha
    exact ih (Memory.write_within v h (by omega)) (by omega)

theorem State.reset_mem_wf : State.reset.mem.wf := by decide

end Sys2Proof.Machine
end

