-- ==== Sys2Proof/Laws/State.lean ====
section
/-! SUPPORT. One lemma per field per update of State, and what registers, memory and flags read as after each update. -/

namespace Sys2Proof.Machine

section
variable (s : State)

/-! ## writeReg -/

@[simp] theorem State.writeReg_regs (r : Reg) (v : Word) : (s.writeReg r v).regs = s.regs.set r.val v r.isLt := rfl
@[simp] theorem State.writeReg_pc (r : Reg) (v : Word) : (s.writeReg r v).pc = s.pc := rfl
@[simp] theorem State.writeReg_flags (r : Reg) (v : Word) : (s.writeReg r v).flags = s.flags := rfl
@[simp] theorem State.writeReg_sp (r : Reg) (v : Word) : (s.writeReg r v).sp = s.sp := rfl
@[simp] theorem State.writeReg_spx (r : Reg) (v : Word) : (s.writeReg r v).spx = s.spx := rfl
@[simp] theorem State.writeReg_ir (r : Reg) (v : Word) : (s.writeReg r v).ir = s.ir := rfl
@[simp] theorem State.writeReg_faultCause (r : Reg) (v : Word) : (s.writeReg r v).faultCause = s.faultCause := rfl
@[simp] theorem State.writeReg_faultAddr (r : Reg) (v : Word) : (s.writeReg r v).faultAddr = s.faultAddr := rfl
@[simp] theorem State.writeReg_mem (r : Reg) (v : Word) : (s.writeReg r v).mem = s.mem := rfl
@[simp] theorem State.writeReg_cfg (r : Reg) (v : Word) : (s.writeReg r v).cfg = s.cfg := rfl
@[simp] theorem State.writeReg_resetDone (r : Reg) (v : Word) : (s.writeReg r v).resetDone = s.resetDone := rfl

/-! ## setPc -/

@[simp] theorem State.setPc_regs (v : Word) : (s.setPc v).regs = s.regs := rfl
@[simp] theorem State.setPc_pc (v : Word) : (s.setPc v).pc = v := rfl
@[simp] theorem State.setPc_flags (v : Word) : (s.setPc v).flags = s.flags := rfl
@[simp] theorem State.setPc_sp (v : Word) : (s.setPc v).sp = s.sp := rfl
@[simp] theorem State.setPc_spx (v : Word) : (s.setPc v).spx = s.spx := rfl
@[simp] theorem State.setPc_ir (v : Word) : (s.setPc v).ir = s.ir := rfl
@[simp] theorem State.setPc_faultCause (v : Word) : (s.setPc v).faultCause = s.faultCause := rfl
@[simp] theorem State.setPc_faultAddr (v : Word) : (s.setPc v).faultAddr = s.faultAddr := rfl
@[simp] theorem State.setPc_mem (v : Word) : (s.setPc v).mem = s.mem := rfl
@[simp] theorem State.setPc_cfg (v : Word) : (s.setPc v).cfg = s.cfg := rfl
@[simp] theorem State.setPc_resetDone (v : Word) : (s.setPc v).resetDone = s.resetDone := rfl

/-! ## advancePc -/

@[simp] theorem State.advancePc_regs : (s.advancePc).regs = s.regs := rfl
@[simp] theorem State.advancePc_pc : (s.advancePc).pc = s.pc + 1#16 := rfl
@[simp] theorem State.advancePc_flags : (s.advancePc).flags = s.flags := rfl
@[simp] theorem State.advancePc_sp : (s.advancePc).sp = s.sp := rfl
@[simp] theorem State.advancePc_spx : (s.advancePc).spx = s.spx := rfl
@[simp] theorem State.advancePc_ir : (s.advancePc).ir = s.ir := rfl
@[simp] theorem State.advancePc_faultCause : (s.advancePc).faultCause = s.faultCause := rfl
@[simp] theorem State.advancePc_faultAddr : (s.advancePc).faultAddr = s.faultAddr := rfl
@[simp] theorem State.advancePc_mem : (s.advancePc).mem = s.mem := rfl
@[simp] theorem State.advancePc_cfg : (s.advancePc).cfg = s.cfg := rfl
@[simp] theorem State.advancePc_resetDone : (s.advancePc).resetDone = s.resetDone := rfl

/-! ## setIr -/

@[simp] theorem State.setIr_regs (v : Word) : (s.setIr v).regs = s.regs := rfl
@[simp] theorem State.setIr_pc (v : Word) : (s.setIr v).pc = s.pc := rfl
@[simp] theorem State.setIr_flags (v : Word) : (s.setIr v).flags = s.flags := rfl
@[simp] theorem State.setIr_sp (v : Word) : (s.setIr v).sp = s.sp := rfl
@[simp] theorem State.setIr_spx (v : Word) : (s.setIr v).spx = s.spx := rfl
@[simp] theorem State.setIr_ir (v : Word) : (s.setIr v).ir = v := rfl
@[simp] theorem State.setIr_faultCause (v : Word) : (s.setIr v).faultCause = s.faultCause := rfl
@[simp] theorem State.setIr_faultAddr (v : Word) : (s.setIr v).faultAddr = s.faultAddr := rfl
@[simp] theorem State.setIr_mem (v : Word) : (s.setIr v).mem = s.mem := rfl
@[simp] theorem State.setIr_cfg (v : Word) : (s.setIr v).cfg = s.cfg := rfl
@[simp] theorem State.setIr_resetDone (v : Word) : (s.setIr v).resetDone = s.resetDone := rfl

/-! ## setFlags -/

@[simp] theorem State.setFlags_regs (f : Word) : (s.setFlags f).regs = s.regs := rfl
@[simp] theorem State.setFlags_pc (f : Word) : (s.setFlags f).pc = s.pc := rfl
@[simp] theorem State.setFlags_flags (f : Word) : (s.setFlags f).flags = f := rfl
@[simp] theorem State.setFlags_sp (f : Word) : (s.setFlags f).sp = s.sp := rfl
@[simp] theorem State.setFlags_spx (f : Word) : (s.setFlags f).spx = s.spx := rfl
@[simp] theorem State.setFlags_ir (f : Word) : (s.setFlags f).ir = s.ir := rfl
@[simp] theorem State.setFlags_faultCause (f : Word) : (s.setFlags f).faultCause = s.faultCause := rfl
@[simp] theorem State.setFlags_faultAddr (f : Word) : (s.setFlags f).faultAddr = s.faultAddr := rfl
@[simp] theorem State.setFlags_mem (f : Word) : (s.setFlags f).mem = s.mem := rfl
@[simp] theorem State.setFlags_cfg (f : Word) : (s.setFlags f).cfg = s.cfg := rfl
@[simp] theorem State.setFlags_resetDone (f : Word) : (s.setFlags f).resetDone = s.resetDone := rfl

/-! ## setHalt -/

@[simp] theorem State.setHalt_regs : (s.setHalt).regs = s.regs := rfl
@[simp] theorem State.setHalt_pc : (s.setHalt).pc = s.pc := rfl
@[simp] theorem State.setHalt_flags : (s.setHalt).flags = s.flags ||| maskHalt := rfl
@[simp] theorem State.setHalt_sp : (s.setHalt).sp = s.sp := rfl
@[simp] theorem State.setHalt_spx : (s.setHalt).spx = s.spx := rfl
@[simp] theorem State.setHalt_ir : (s.setHalt).ir = s.ir := rfl
@[simp] theorem State.setHalt_faultCause : (s.setHalt).faultCause = s.faultCause := rfl
@[simp] theorem State.setHalt_faultAddr : (s.setHalt).faultAddr = s.faultAddr := rfl
@[simp] theorem State.setHalt_mem : (s.setHalt).mem = s.mem := rfl
@[simp] theorem State.setHalt_cfg : (s.setHalt).cfg = s.cfg := rfl
@[simp] theorem State.setHalt_resetDone : (s.setHalt).resetDone = s.resetDone := rfl

/-! ## setZN -/

@[simp] theorem State.setZN_regs (r : Word) : (s.setZN r).regs = s.regs := rfl
@[simp] theorem State.setZN_pc (r : Word) : (s.setZN r).pc = s.pc := rfl
@[simp] theorem State.setZN_flags (r : Word) : (s.setZN r).flags = flagsZN r s.flags := rfl
@[simp] theorem State.setZN_sp (r : Word) : (s.setZN r).sp = s.sp := rfl
@[simp] theorem State.setZN_spx (r : Word) : (s.setZN r).spx = s.spx := rfl
@[simp] theorem State.setZN_ir (r : Word) : (s.setZN r).ir = s.ir := rfl
@[simp] theorem State.setZN_faultCause (r : Word) : (s.setZN r).faultCause = s.faultCause := rfl
@[simp] theorem State.setZN_faultAddr (r : Word) : (s.setZN r).faultAddr = s.faultAddr := rfl
@[simp] theorem State.setZN_mem (r : Word) : (s.setZN r).mem = s.mem := rfl
@[simp] theorem State.setZN_cfg (r : Word) : (s.setZN r).cfg = s.cfg := rfl
@[simp] theorem State.setZN_resetDone (r : Word) : (s.setZN r).resetDone = s.resetDone := rfl

/-! ## setZNCV -/

@[simp] theorem State.setZNCV_regs (r : Word) (c v : Bool) : (s.setZNCV r c v).regs = s.regs := rfl
@[simp] theorem State.setZNCV_pc (r : Word) (c v : Bool) : (s.setZNCV r c v).pc = s.pc := rfl
@[simp] theorem State.setZNCV_flags (r : Word) (c v : Bool) : (s.setZNCV r c v).flags = flagsZNCV r c v s.flags := rfl
@[simp] theorem State.setZNCV_sp (r : Word) (c v : Bool) : (s.setZNCV r c v).sp = s.sp := rfl
@[simp] theorem State.setZNCV_spx (r : Word) (c v : Bool) : (s.setZNCV r c v).spx = s.spx := rfl
@[simp] theorem State.setZNCV_ir (r : Word) (c v : Bool) : (s.setZNCV r c v).ir = s.ir := rfl
@[simp] theorem State.setZNCV_faultCause (r : Word) (c v : Bool) : (s.setZNCV r c v).faultCause = s.faultCause := rfl
@[simp] theorem State.setZNCV_faultAddr (r : Word) (c v : Bool) : (s.setZNCV r c v).faultAddr = s.faultAddr := rfl
@[simp] theorem State.setZNCV_mem (r : Word) (c v : Bool) : (s.setZNCV r c v).mem = s.mem := rfl
@[simp] theorem State.setZNCV_cfg (r : Word) (c v : Bool) : (s.setZNCV r c v).cfg = s.cfg := rfl
@[simp] theorem State.setZNCV_resetDone (r : Word) (c v : Bool) : (s.setZNCV r c v).resetDone = s.resetDone := rfl

/-! ## commitZN -/

@[simp] theorem State.commitZN_regs (d : Reg) (r : Word) : (s.commitZN d r).regs = s.regs.set d.val r d.isLt := rfl
@[simp] theorem State.commitZN_pc (d : Reg) (r : Word) : (s.commitZN d r).pc = s.pc := rfl
@[simp] theorem State.commitZN_flags (d : Reg) (r : Word) : (s.commitZN d r).flags = flagsZN r s.flags := rfl
@[simp] theorem State.commitZN_sp (d : Reg) (r : Word) : (s.commitZN d r).sp = s.sp := rfl
@[simp] theorem State.commitZN_spx (d : Reg) (r : Word) : (s.commitZN d r).spx = s.spx := rfl
@[simp] theorem State.commitZN_ir (d : Reg) (r : Word) : (s.commitZN d r).ir = s.ir := rfl
@[simp] theorem State.commitZN_faultCause (d : Reg) (r : Word) : (s.commitZN d r).faultCause = s.faultCause := rfl
@[simp] theorem State.commitZN_faultAddr (d : Reg) (r : Word) : (s.commitZN d r).faultAddr = s.faultAddr := rfl
@[simp] theorem State.commitZN_mem (d : Reg) (r : Word) : (s.commitZN d r).mem = s.mem := rfl
@[simp] theorem State.commitZN_cfg (d : Reg) (r : Word) : (s.commitZN d r).cfg = s.cfg := rfl
@[simp] theorem State.commitZN_resetDone (d : Reg) (r : Word) : (s.commitZN d r).resetDone = s.resetDone := rfl

/-! ## commitZNCV -/

@[simp] theorem State.commitZNCV_regs (d : Reg) (r : Word) (c v : Bool) : (s.commitZNCV d r c v).regs = s.regs.set d.val r d.isLt := rfl
@[simp] theorem State.commitZNCV_pc (d : Reg) (r : Word) (c v : Bool) : (s.commitZNCV d r c v).pc = s.pc := rfl
@[simp] theorem State.commitZNCV_flags (d : Reg) (r : Word) (c v : Bool) : (s.commitZNCV d r c v).flags = flagsZNCV r c v s.flags := rfl
@[simp] theorem State.commitZNCV_sp (d : Reg) (r : Word) (c v : Bool) : (s.commitZNCV d r c v).sp = s.sp := rfl
@[simp] theorem State.commitZNCV_spx (d : Reg) (r : Word) (c v : Bool) : (s.commitZNCV d r c v).spx = s.spx := rfl
@[simp] theorem State.commitZNCV_ir (d : Reg) (r : Word) (c v : Bool) : (s.commitZNCV d r c v).ir = s.ir := rfl
@[simp] theorem State.commitZNCV_faultCause (d : Reg) (r : Word) (c v : Bool) : (s.commitZNCV d r c v).faultCause = s.faultCause := rfl
@[simp] theorem State.commitZNCV_faultAddr (d : Reg) (r : Word) (c v : Bool) : (s.commitZNCV d r c v).faultAddr = s.faultAddr := rfl
@[simp] theorem State.commitZNCV_mem (d : Reg) (r : Word) (c v : Bool) : (s.commitZNCV d r c v).mem = s.mem := rfl
@[simp] theorem State.commitZNCV_cfg (d : Reg) (r : Word) (c v : Bool) : (s.commitZNCV d r c v).cfg = s.cfg := rfl
@[simp] theorem State.commitZNCV_resetDone (d : Reg) (r : Word) (c v : Bool) : (s.commitZNCV d r c v).resetDone = s.resetDone := rfl

/-! ## memWrite -/

@[simp] theorem State.memWrite_regs (a v : Word) : (s.memWrite a v).regs = s.regs := rfl
@[simp] theorem State.memWrite_pc (a v : Word) : (s.memWrite a v).pc = s.pc := rfl
@[simp] theorem State.memWrite_flags (a v : Word) : (s.memWrite a v).flags = s.flags := rfl
@[simp] theorem State.memWrite_sp (a v : Word) : (s.memWrite a v).sp = s.sp := rfl
@[simp] theorem State.memWrite_spx (a v : Word) : (s.memWrite a v).spx = s.spx := rfl
@[simp] theorem State.memWrite_ir (a v : Word) : (s.memWrite a v).ir = s.ir := rfl
@[simp] theorem State.memWrite_faultCause (a v : Word) : (s.memWrite a v).faultCause = s.faultCause := rfl
@[simp] theorem State.memWrite_faultAddr (a v : Word) : (s.memWrite a v).faultAddr = s.faultAddr := rfl
@[simp] theorem State.memWrite_mem (a v : Word) : (s.memWrite a v).mem = s.mem.write a.toNat v := rfl
@[simp] theorem State.memWrite_cfg (a v : Word) : (s.memWrite a v).cfg = s.cfg := rfl
@[simp] theorem State.memWrite_resetDone (a v : Word) : (s.memWrite a v).resetDone = s.resetDone := rfl

/-! ## raise -/

@[simp] theorem State.raise_regs (e : Trap) (a : Word) : (s.raise e a).regs = s.regs := rfl
@[simp] theorem State.raise_pc (e : Trap) (a : Word) : (s.raise e a).pc = s.pc := rfl
@[simp] theorem State.raise_flags (e : Trap) (a : Word) : (s.raise e a).flags = s.flags ||| maskHalt := rfl
@[simp] theorem State.raise_sp (e : Trap) (a : Word) : (s.raise e a).sp = s.sp := rfl
@[simp] theorem State.raise_spx (e : Trap) (a : Word) : (s.raise e a).spx = s.spx := rfl
@[simp] theorem State.raise_ir (e : Trap) (a : Word) : (s.raise e a).ir = s.ir := rfl
@[simp] theorem State.raise_faultCause (e : Trap) (a : Word) : (s.raise e a).faultCause = e.cause := rfl
@[simp] theorem State.raise_faultAddr (e : Trap) (a : Word) : (s.raise e a).faultAddr = a := rfl
@[simp] theorem State.raise_mem (e : Trap) (a : Word) : (s.raise e a).mem = s.mem := rfl
@[simp] theorem State.raise_cfg (e : Trap) (a : Word) : (s.raise e a).cfg = s.cfg := rfl
@[simp] theorem State.raise_resetDone (e : Trap) (a : Word) : (s.raise e a).resetDone = s.resetDone := rfl

/-! ## afterFetch -/

@[simp] theorem State.afterFetch_regs : (s.afterFetch).regs = s.regs := rfl
@[simp] theorem State.afterFetch_pc : (s.afterFetch).pc = s.pc + 1#16 := rfl
@[simp] theorem State.afterFetch_flags : (s.afterFetch).flags = s.flags := rfl
@[simp] theorem State.afterFetch_sp : (s.afterFetch).sp = s.sp := rfl
@[simp] theorem State.afterFetch_spx : (s.afterFetch).spx = s.spx := rfl
@[simp] theorem State.afterFetch_ir : (s.afterFetch).ir = s.memRead s.pc := rfl
@[simp] theorem State.afterFetch_faultCause : (s.afterFetch).faultCause = s.faultCause := rfl
@[simp] theorem State.afterFetch_faultAddr : (s.afterFetch).faultAddr = s.faultAddr := rfl
@[simp] theorem State.afterFetch_mem : (s.afterFetch).mem = s.mem := rfl
@[simp] theorem State.afterFetch_cfg : (s.afterFetch).cfg = s.cfg := rfl
@[simp] theorem State.afterFetch_resetDone : (s.afterFetch).resetDone = s.resetDone := rfl

/-! ## afterWords -/

@[simp] theorem State.afterWords_regs (n : Nat) : (s.afterWords n).regs = s.regs := rfl
@[simp] theorem State.afterWords_pc (n : Nat) : (s.afterWords n).pc = s.pc + BitVec.ofNat 16 n := rfl
@[simp] theorem State.afterWords_flags (n : Nat) : (s.afterWords n).flags = s.flags := rfl
@[simp] theorem State.afterWords_sp (n : Nat) : (s.afterWords n).sp = s.sp := rfl
@[simp] theorem State.afterWords_spx (n : Nat) : (s.afterWords n).spx = s.spx := rfl
@[simp] theorem State.afterWords_ir (n : Nat) : (s.afterWords n).ir = s.memRead s.pc := rfl
@[simp] theorem State.afterWords_faultCause (n : Nat) : (s.afterWords n).faultCause = s.faultCause := rfl
@[simp] theorem State.afterWords_faultAddr (n : Nat) : (s.afterWords n).faultAddr = s.faultAddr := rfl
@[simp] theorem State.afterWords_mem (n : Nat) : (s.afterWords n).mem = s.mem := rfl
@[simp] theorem State.afterWords_cfg (n : Nat) : (s.afterWords n).cfg = s.cfg := rfl
@[simp] theorem State.afterWords_resetDone (n : Nat) : (s.afterWords n).resetDone = s.resetDone := rfl

/-! ## resetOp -/

@[simp] theorem State.resetOp_regs : (s.resetOp).regs = Vector.replicate 16 0x0000#16 := rfl
@[simp] theorem State.resetOp_pc : (s.resetOp).pc = 0x0100#16 := rfl
@[simp] theorem State.resetOp_flags : (s.resetOp).flags = 0x0000#16 := rfl
@[simp] theorem State.resetOp_sp : (s.resetOp).sp = 0x0000#16 := rfl
@[simp] theorem State.resetOp_spx : (s.resetOp).spx = 0x0000#16 := rfl
@[simp] theorem State.resetOp_ir : (s.resetOp).ir = Config.irAfterReset s := rfl
@[simp] theorem State.resetOp_faultCause : (s.resetOp).faultCause = .none := rfl
@[simp] theorem State.resetOp_faultAddr : (s.resetOp).faultAddr = 0x0000#16 := rfl
@[simp] theorem State.resetOp_mem : (s.resetOp).mem = s.mem := rfl
@[simp] theorem State.resetOp_cfg : (s.resetOp).cfg = s.cfg := rfl
@[simp] theorem State.resetOp_resetDone : (s.resetOp).resetDone = true := rfl

/-! ## loadmem -/

@[simp] theorem State.loadmem_regs (b : List Word) (n a : Nat) : (s.loadmem b n a).regs = s.regs := rfl
@[simp] theorem State.loadmem_pc (b : List Word) (n a : Nat) : (s.loadmem b n a).pc = s.pc := rfl
@[simp] theorem State.loadmem_flags (b : List Word) (n a : Nat) : (s.loadmem b n a).flags = s.flags := rfl
@[simp] theorem State.loadmem_sp (b : List Word) (n a : Nat) : (s.loadmem b n a).sp = s.sp := rfl
@[simp] theorem State.loadmem_spx (b : List Word) (n a : Nat) : (s.loadmem b n a).spx = s.spx := rfl
@[simp] theorem State.loadmem_ir (b : List Word) (n a : Nat) : (s.loadmem b n a).ir = s.ir := rfl
@[simp] theorem State.loadmem_faultCause (b : List Word) (n a : Nat) : (s.loadmem b n a).faultCause = s.faultCause := rfl
@[simp] theorem State.loadmem_faultAddr (b : List Word) (n a : Nat) : (s.loadmem b n a).faultAddr = s.faultAddr := rfl
@[simp] theorem State.loadmem_mem (b : List Word) (n a : Nat) : (s.loadmem b n a).mem = s.mem.writeList a (s.loadWords b n a) := rfl
@[simp] theorem State.loadmem_cfg (b : List Word) (n a : Nat) : (s.loadmem b n a).cfg = s.cfg := rfl
@[simp] theorem State.loadmem_resetDone (b : List Word) (n a : Nat) : (s.loadmem b n a).resetDone = s.resetDone := rfl

/-! ## Registers -/

/-- R10: a register reads as it was last written; every other register is kept. -/
theorem State.readReg_writeReg (d : Reg) (v : Word) (r : Reg) :
    (s.writeReg d v).readReg r = if r = d then v else s.readReg r := by
  simp only [State.readReg, State.writeReg, Fin.getElem_fin]
  rw [Vector.getElem_set]
  by_cases h : r = d
  · subst h; simp
  · have : d.val ≠ r.val := fun e => h (Fin.ext e.symm)
    simp [h, this]

@[simp] theorem State.readReg_setPc (v : Word) (q : Reg) : (s.setPc v).readReg q = s.readReg q := rfl
@[simp] theorem State.readReg_advancePc (q : Reg) : (s.advancePc).readReg q = s.readReg q := rfl
@[simp] theorem State.readReg_setIr (v : Word) (q : Reg) : (s.setIr v).readReg q = s.readReg q := rfl
@[simp] theorem State.readReg_setFlags (f : Word) (q : Reg) : (s.setFlags f).readReg q = s.readReg q := rfl
@[simp] theorem State.readReg_setHalt (q : Reg) : (s.setHalt).readReg q = s.readReg q := rfl
@[simp] theorem State.readReg_setZN (r : Word) (q : Reg) : (s.setZN r).readReg q = s.readReg q := rfl
@[simp] theorem State.readReg_setZNCV (r : Word) (c v : Bool) (q : Reg) : (s.setZNCV r c v).readReg q = s.readReg q := rfl
theorem State.readReg_commitZN (d : Reg) (r : Word) (q : Reg) :
    (s.commitZN d r).readReg q = if q = d then r else s.readReg q := s.readReg_writeReg d r q
theorem State.readReg_commitZNCV (d : Reg) (r : Word) (c v : Bool) (q : Reg) :
    (s.commitZNCV d r c v).readReg q = if q = d then r else s.readReg q := s.readReg_writeReg d r q
@[simp] theorem State.readReg_memWrite (a v : Word) (q : Reg) : (s.memWrite a v).readReg q = s.readReg q := rfl
@[simp] theorem State.readReg_raise (e : Trap) (a : Word) (q : Reg) : (s.raise e a).readReg q = s.readReg q := rfl
@[simp] theorem State.readReg_afterFetch (q : Reg) : (s.afterFetch).readReg q = s.readReg q := rfl
@[simp] theorem State.readReg_afterWords (n : Nat) (q : Reg) : (s.afterWords n).readReg q = s.readReg q := rfl
@[simp] theorem State.readReg_resetOp (q : Reg) : s.resetOp.readReg q = 0x0000#16 := by
  simp [State.readReg]
@[simp] theorem State.readReg_loadmem (b : List Word) (n a : Nat) (q : Reg) : (s.loadmem b n a).readReg q = s.readReg q := rfl

/-! ## Memory -/

@[simp] theorem State.inRange_writeReg (r : Reg) (v : Word) (q : Word) : (s.writeReg r v).inRange q = s.inRange q := rfl
@[simp] theorem State.memRead_writeReg (r : Reg) (v : Word) (q : Word) : (s.writeReg r v).memRead q = s.memRead q := rfl
@[simp] theorem State.inRange_setPc (v : Word) (q : Word) : (s.setPc v).inRange q = s.inRange q := rfl
@[simp] theorem State.memRead_setPc (v : Word) (q : Word) : (s.setPc v).memRead q = s.memRead q := rfl
@[simp] theorem State.inRange_advancePc (q : Word) : (s.advancePc).inRange q = s.inRange q := rfl
@[simp] theorem State.memRead_advancePc (q : Word) : (s.advancePc).memRead q = s.memRead q := rfl
@[simp] theorem State.inRange_setIr (v : Word) (q : Word) : (s.setIr v).inRange q = s.inRange q := rfl
@[simp] theorem State.memRead_setIr (v : Word) (q : Word) : (s.setIr v).memRead q = s.memRead q := rfl
@[simp] theorem State.inRange_setFlags (f : Word) (q : Word) : (s.setFlags f).inRange q = s.inRange q := rfl
@[simp] theorem State.memRead_setFlags (f : Word) (q : Word) : (s.setFlags f).memRead q = s.memRead q := rfl
@[simp] theorem State.inRange_setHalt (q : Word) : (s.setHalt).inRange q = s.inRange q := rfl
@[simp] theorem State.memRead_setHalt (q : Word) : (s.setHalt).memRead q = s.memRead q := rfl
@[simp] theorem State.inRange_setZN (r : Word) (q : Word) : (s.setZN r).inRange q = s.inRange q := rfl
@[simp] theorem State.memRead_setZN (r : Word) (q : Word) : (s.setZN r).memRead q = s.memRead q := rfl
@[simp] theorem State.inRange_setZNCV (r : Word) (c v : Bool) (q : Word) : (s.setZNCV r c v).inRange q = s.inRange q := rfl
@[simp] theorem State.memRead_setZNCV (r : Word) (c v : Bool) (q : Word) : (s.setZNCV r c v).memRead q = s.memRead q := rfl
@[simp] theorem State.inRange_commitZN (d : Reg) (r : Word) (q : Word) : (s.commitZN d r).inRange q = s.inRange q := rfl
@[simp] theorem State.memRead_commitZN (d : Reg) (r : Word) (q : Word) : (s.commitZN d r).memRead q = s.memRead q := rfl
@[simp] theorem State.inRange_commitZNCV (d : Reg) (r : Word) (c v : Bool) (q : Word) : (s.commitZNCV d r c v).inRange q = s.inRange q := rfl
@[simp] theorem State.memRead_commitZNCV (d : Reg) (r : Word) (c v : Bool) (q : Word) : (s.commitZNCV d r c v).memRead q = s.memRead q := rfl
@[simp] theorem State.inRange_memWrite (a v : Word) (q : Word) : (s.memWrite a v).inRange q = s.inRange q := rfl
@[simp] theorem State.inRange_raise (e : Trap) (a : Word) (q : Word) : (s.raise e a).inRange q = s.inRange q := rfl
@[simp] theorem State.memRead_raise (e : Trap) (a : Word) (q : Word) : (s.raise e a).memRead q = s.memRead q := rfl
@[simp] theorem State.inRange_afterFetch (q : Word) : (s.afterFetch).inRange q = s.inRange q := rfl
@[simp] theorem State.memRead_afterFetch (q : Word) : (s.afterFetch).memRead q = s.memRead q := rfl
@[simp] theorem State.inRange_afterWords (n : Nat) (q : Word) : (s.afterWords n).inRange q = s.inRange q := rfl
@[simp] theorem State.memRead_afterWords (n : Nat) (q : Word) : (s.afterWords n).memRead q = s.memRead q := rfl
@[simp] theorem State.inRange_resetOp (q : Word) : (s.resetOp).inRange q = s.inRange q := rfl
@[simp] theorem State.memRead_resetOp (q : Word) : (s.resetOp).memRead q = s.memRead q := rfl
@[simp] theorem State.inRange_loadmem (b : List Word) (n a : Nat) (q : Word) : (s.loadmem b n a).inRange q = s.inRange q := rfl

/-- R53, R54: a read gives the word last written at the address; every other word is kept. -/
theorem State.memRead_memWrite (a v b : Word) :
    (s.memWrite a v).memRead b = if b = a then v else s.memRead b := by
  simp only [State.memRead, State.memWrite, Memory.read_write]
  by_cases h : b = a
  · simp [h]
  · have : b.toNat ≠ a.toNat := fun e => h (BitVec.eq_of_toNat_eq e)
    simp [h, this]

theorem State.inRange_iff (a : Word) : s.inRange a = true ↔ a.toNat < s.cfg.memWords := by
  simp [State.inRange]

/-! ## Flags -/

@[simp] theorem State.flagZ_writeReg (r : Reg) (v : Word) : (s.writeReg r v).flagZ = s.flagZ := rfl
@[simp] theorem State.flagN_writeReg (r : Reg) (v : Word) : (s.writeReg r v).flagN = s.flagN := rfl
@[simp] theorem State.flagV_writeReg (r : Reg) (v : Word) : (s.writeReg r v).flagV = s.flagV := rfl
@[simp] theorem State.flagC_writeReg (r : Reg) (v : Word) : (s.writeReg r v).flagC = s.flagC := rfl
@[simp] theorem State.halted_writeReg (r : Reg) (v : Word) : (s.writeReg r v).halted = s.halted := rfl
@[simp] theorem State.flagZ_setPc (v : Word) : (s.setPc v).flagZ = s.flagZ := rfl
@[simp] theorem State.flagN_setPc (v : Word) : (s.setPc v).flagN = s.flagN := rfl
@[simp] theorem State.flagV_setPc (v : Word) : (s.setPc v).flagV = s.flagV := rfl
@[simp] theorem State.flagC_setPc (v : Word) : (s.setPc v).flagC = s.flagC := rfl
@[simp] theorem State.halted_setPc (v : Word) : (s.setPc v).halted = s.halted := rfl
@[simp] theorem State.flagZ_advancePc : (s.advancePc).flagZ = s.flagZ := rfl
@[simp] theorem State.flagN_advancePc : (s.advancePc).flagN = s.flagN := rfl
@[simp] theorem State.flagV_advancePc : (s.advancePc).flagV = s.flagV := rfl
@[simp] theorem State.flagC_advancePc : (s.advancePc).flagC = s.flagC := rfl
@[simp] theorem State.halted_advancePc : (s.advancePc).halted = s.halted := rfl
@[simp] theorem State.flagZ_setIr (v : Word) : (s.setIr v).flagZ = s.flagZ := rfl
@[simp] theorem State.flagN_setIr (v : Word) : (s.setIr v).flagN = s.flagN := rfl
@[simp] theorem State.flagV_setIr (v : Word) : (s.setIr v).flagV = s.flagV := rfl
@[simp] theorem State.flagC_setIr (v : Word) : (s.setIr v).flagC = s.flagC := rfl
@[simp] theorem State.halted_setIr (v : Word) : (s.setIr v).halted = s.halted := rfl
@[simp] theorem State.halted_setHalt : (s.setHalt).halted = true := haltBit_or_maskHalt s.flags
@[simp] theorem State.flagZ_setZN (r : Word) : (s.setZN r).flagZ = zeroOf r := zeroBit_flagsZN r s.flags
@[simp] theorem State.flagN_setZN (r : Word) : (s.setZN r).flagN = negativeOf r := negativeBit_flagsZN r s.flags
@[simp] theorem State.flagV_setZN (r : Word) : (s.setZN r).flagV = s.flagV := overflowBit_flagsZN r s.flags
@[simp] theorem State.flagC_setZN (r : Word) : (s.setZN r).flagC = s.flagC := carryBit_flagsZN r s.flags
@[simp] theorem State.halted_setZN (r : Word) : (s.setZN r).halted = s.halted := haltBit_flagsZN r s.flags
@[simp] theorem State.flagZ_setZNCV (r : Word) (c v : Bool) : (s.setZNCV r c v).flagZ = zeroOf r := zeroBit_flagsZNCV r c v s.flags
@[simp] theorem State.flagN_setZNCV (r : Word) (c v : Bool) : (s.setZNCV r c v).flagN = negativeOf r := negativeBit_flagsZNCV r c v s.flags
@[simp] theorem State.flagV_setZNCV (r : Word) (c v : Bool) : (s.setZNCV r c v).flagV = v := overflowBit_flagsZNCV r c v s.flags
@[simp] theorem State.flagC_setZNCV (r : Word) (c v : Bool) : (s.setZNCV r c v).flagC = c := carryBit_flagsZNCV r c v s.flags
@[simp] theorem State.halted_setZNCV (r : Word) (c v : Bool) : (s.setZNCV r c v).halted = s.halted := haltBit_flagsZNCV r c v s.flags
@[simp] theorem State.flagZ_commitZN (d : Reg) (r : Word) : (s.commitZN d r).flagZ = zeroOf r := zeroBit_flagsZN r s.flags
@[simp] theorem State.flagN_commitZN (d : Reg) (r : Word) : (s.commitZN d r).flagN = negativeOf r := negativeBit_flagsZN r s.flags
@[simp] theorem State.flagV_commitZN (d : Reg) (r : Word) : (s.commitZN d r).flagV = s.flagV := overflowBit_flagsZN r s.flags
@[simp] theorem State.flagC_commitZN (d : Reg) (r : Word) : (s.commitZN d r).flagC = s.flagC := carryBit_flagsZN r s.flags
@[simp] theorem State.halted_commitZN (d : Reg) (r : Word) : (s.commitZN d r).halted = s.halted := haltBit_flagsZN r s.flags
@[simp] theorem State.flagZ_commitZNCV (d : Reg) (r : Word) (c v : Bool) : (s.commitZNCV d r c v).flagZ = zeroOf r := zeroBit_flagsZNCV r c v s.flags
@[simp] theorem State.flagN_commitZNCV (d : Reg) (r : Word) (c v : Bool) : (s.commitZNCV d r c v).flagN = negativeOf r := negativeBit_flagsZNCV r c v s.flags
@[simp] theorem State.flagV_commitZNCV (d : Reg) (r : Word) (c v : Bool) : (s.commitZNCV d r c v).flagV = v := overflowBit_flagsZNCV r c v s.flags
@[simp] theorem State.flagC_commitZNCV (d : Reg) (r : Word) (c v : Bool) : (s.commitZNCV d r c v).flagC = c := carryBit_flagsZNCV r c v s.flags
@[simp] theorem State.halted_commitZNCV (d : Reg) (r : Word) (c v : Bool) : (s.commitZNCV d r c v).halted = s.halted := haltBit_flagsZNCV r c v s.flags
@[simp] theorem State.flagZ_memWrite (a v : Word) : (s.memWrite a v).flagZ = s.flagZ := rfl
@[simp] theorem State.flagN_memWrite (a v : Word) : (s.memWrite a v).flagN = s.flagN := rfl
@[simp] theorem State.flagV_memWrite (a v : Word) : (s.memWrite a v).flagV = s.flagV := rfl
@[simp] theorem State.flagC_memWrite (a v : Word) : (s.memWrite a v).flagC = s.flagC := rfl
@[simp] theorem State.halted_memWrite (a v : Word) : (s.memWrite a v).halted = s.halted := rfl
@[simp] theorem State.halted_raise (e : Trap) (a : Word) : (s.raise e a).halted = true := haltBit_or_maskHalt s.flags
@[simp] theorem State.flagZ_afterFetch : (s.afterFetch).flagZ = s.flagZ := rfl
@[simp] theorem State.flagN_afterFetch : (s.afterFetch).flagN = s.flagN := rfl
@[simp] theorem State.flagV_afterFetch : (s.afterFetch).flagV = s.flagV := rfl
@[simp] theorem State.flagC_afterFetch : (s.afterFetch).flagC = s.flagC := rfl
@[simp] theorem State.halted_afterFetch : (s.afterFetch).halted = s.halted := rfl
@[simp] theorem State.flagZ_afterWords (n : Nat) : (s.afterWords n).flagZ = s.flagZ := rfl
@[simp] theorem State.flagN_afterWords (n : Nat) : (s.afterWords n).flagN = s.flagN := rfl
@[simp] theorem State.flagV_afterWords (n : Nat) : (s.afterWords n).flagV = s.flagV := rfl
@[simp] theorem State.flagC_afterWords (n : Nat) : (s.afterWords n).flagC = s.flagC := rfl
@[simp] theorem State.halted_afterWords (n : Nat) : (s.afterWords n).halted = s.halted := rfl
@[simp] theorem State.flagZ_resetOp : (s.resetOp).flagZ = false := by simp [State.flagZ, zeroBit]
@[simp] theorem State.flagN_resetOp : (s.resetOp).flagN = false := by simp [State.flagN, negativeBit]
@[simp] theorem State.flagV_resetOp : (s.resetOp).flagV = false := by simp [State.flagV, overflowBit]
@[simp] theorem State.flagC_resetOp : (s.resetOp).flagC = false := by simp [State.flagC, carryBit]
@[simp] theorem State.halted_resetOp : (s.resetOp).halted = false := by simp [State.halted, haltBit]
@[simp] theorem State.flagZ_loadmem (b : List Word) (n a : Nat) : (s.loadmem b n a).flagZ = s.flagZ := rfl
@[simp] theorem State.flagN_loadmem (b : List Word) (n a : Nat) : (s.loadmem b n a).flagN = s.flagN := rfl
@[simp] theorem State.flagV_loadmem (b : List Word) (n a : Nat) : (s.loadmem b n a).flagV = s.flagV := rfl
@[simp] theorem State.flagC_loadmem (b : List Word) (n a : Nat) : (s.loadmem b n a).flagC = s.flagC := rfl
@[simp] theorem State.halted_loadmem (b : List Word) (n a : Nat) : (s.loadmem b n a).halted = s.halted := rfl

end

end Sys2Proof.Machine
end

