-- ==== Sys2Proof/Laws/Ops.lean ====
section
/-! SUPPORT. One lemma per shared operation of the meanings and of the cycle: everything it can do. -/

namespace Sys2Proof.Machine

/-! ## Trap entry and commits -/

/-- R233: what trap entry does, whole. -/
theorem State.raise_entered (s : State) (e : Trap) (a : Word) : TrapEntered e a s (s.raise e a) :=
  ⟨s.halted_raise e a, or_maskHalt_outside s.flags _ (by decide), rfl, rfl, rfl, fun _ => rfl,
    fun _ => rfl, rfl, rfl, rfl, rfl, rfl⟩

/-- R115, R120: what committing a result with Z and N does, whole. -/
theorem State.commitZN_effect (s : State) (d : Reg) (r : Word) :
    (s.commitZN d r).readReg d = r ∧ RegsKeptBut d s (s.commitZN d r)
      ∧ ((s.commitZN d r).flagZ = true ↔ r = 0#16) ∧ (s.commitZN d r).flagN = r.getLsbD 15
      ∧ FlagsKeptBut maskZN s (s.commitZN d r) ∧ MemKept s (s.commitZN d r)
      ∧ SpecialsKept s (s.commitZN d r) ∧ (s.commitZN d r).pc = s.pc := by
  refine ⟨by simp [State.readReg_commitZN], fun q hq => by simp [State.readReg_commitZN, hq], ?_,
    by simp [negativeOf], flagsZN_outside r s.flags _ (by decide), fun _ => rfl,
    ⟨rfl, rfl, rfl, rfl, rfl, rfl, rfl⟩, rfl⟩
  simp [zeroOf]

/-- R115, R125: what committing a result with Z, N, C and V does, whole. -/
theorem State.commitZNCV_effect (s : State) (d : Reg) (r : Word) (c v : Bool) :
    (s.commitZNCV d r c v).readReg d = r ∧ RegsKeptBut d s (s.commitZNCV d r c v)
      ∧ ((s.commitZNCV d r c v).flagZ = true ↔ r = 0#16)
      ∧ (s.commitZNCV d r c v).flagN = r.getLsbD 15
      ∧ (s.commitZNCV d r c v).flagC = c ∧ (s.commitZNCV d r c v).flagV = v
      ∧ FlagsKeptBut maskCond s (s.commitZNCV d r c v) ∧ MemKept s (s.commitZNCV d r c v)
      ∧ SpecialsKept s (s.commitZNCV d r c v) ∧ (s.commitZNCV d r c v).pc = s.pc := by
  refine ⟨by simp [State.readReg_commitZNCV], fun q hq => by simp [State.readReg_commitZNCV, hq], ?_,
    by simp [negativeOf], by simp, by simp, flagsZNCV_outside r c v s.flags _ (by decide), fun _ => rfl,
    ⟨rfl, rfl, rfl, rfl, rfl, rfl, rfl⟩, rfl⟩
  simp [zeroOf]

/-- R154, R155: a store either writes one word, with Z and N from it, or traps. -/
theorem storeWord_cases (a v : Word) (s : State) :
    (s.inRange a = true ∧ storeWord a v s = .next ((s.memWrite a v).setZN v))
      ∨ (s.inRange a = false ∧ storeWord a v s = .next (s.raise .addressOutOfRange a)) := by
  cases h : s.inRange a <;> simp [storeWord, h]

/-- R190: a compare writes FLAGS and nothing else. -/
theorem compareWords_eq (op1 op2 : Word) (s : State) :
    compareWords op1 op2 s = s.setFlags (compareWords op1 op2 s).flags := rfl

/-! ## The cycle -/

@[simp] theorem ofFields_op (op : Op) (w imm16 : Word) : (Instr.ofFields op w imm16).op = op := by
  cases op <;> rfl

theorem State.afterFetch_eq (s : State) : s.afterFetch = s.afterWords 1 := rfl

theorem State.afterFetch_advancePc (s : State) : s.afterFetch.advancePc = s.afterWords 2 := by
  have h : s.pc + 1#16 + 1#16 = s.pc + 2#16 := by rw [BitVec.add_assoc]; rfl
  show { s with ir := s.memRead s.pc, pc := s.pc + 1#16 + 1#16 } = _
  rw [h]; rfl

/-- R110 to R113, R142, R235: everything a cycle can do before its execute step. -/
theorem State.fetchDecode_cases (s : State) :
    (s.resetDone = false ∧ s.fetchDecode = .beforeReset)
    ∨ (s.resetDone = true ∧ s.halted = true ∧ s.fetchDecode = .idle)
    ∨ (s.running ∧ s.inRange s.pc = false
        ∧ s.fetchDecode = .trapped (s.raise .addressOutOfRange s.pc))
    ∨ (s.running ∧ s.inRange s.pc = true ∧ Op.ofByte (opcodeField (s.memRead s.pc)) = none
        ∧ s.fetchDecode = .trapped ((s.afterWords 1).raise .illegalOpcode s.pc))
    ∨ (∃ op, s.running ∧ s.inRange s.pc = true
        ∧ Op.ofByte (opcodeField (s.memRead s.pc)) = some op
        ∧ op.twoWords = false
        ∧ s.fetchDecode = .ready (Instr.ofFields op (s.memRead s.pc) 0#16) (s.afterWords 1))
    ∨ (∃ op, s.running ∧ s.inRange s.pc = true
        ∧ Op.ofByte (opcodeField (s.memRead s.pc)) = some op
        ∧ op.twoWords = true ∧ s.inRange (s.pc + 1#16) = false
        ∧ s.fetchDecode = .trapped ((s.afterWords 1).raise .addressOutOfRange (s.pc + 1#16)))
    ∨ (∃ op, s.running ∧ s.inRange s.pc = true
        ∧ Op.ofByte (opcodeField (s.memRead s.pc)) = some op
        ∧ op.twoWords = true ∧ s.inRange (s.pc + 1#16) = true
        ∧ s.fetchDecode = .ready (Instr.ofFields op (s.memRead s.pc) (s.memRead (s.pc + 1#16)))
            (s.afterWords 2)) := by
  unfold State.running State.fetchDecode State.decodeIr State.fetchOperand
  cases hr : s.resetDone
  · simp
  cases hh : s.halted
  · cases hp : s.inRange s.pc
    · simp
    · cases ho : Op.ofByte (opcodeField (s.memRead s.pc)) with
      | none => simp [ho, State.afterFetch_eq]
      | some op =>
        cases ht : op.twoWords
        · simp [ho, ht, State.afterFetch_eq]
        · cases hq : s.inRange (s.pc + 1#16)
          · simp [ho, ht, hq, State.afterFetch_eq]
          · simp [ho, ht, hq, State.afterFetch_advancePc]
  · simp

/-- R110: a step is what its fetch and decode lead to. -/
theorem step_eq (s : State) :
    step s = match s.fetchDecode with
      | .beforeReset => .refused .runBeforeReset
      | .idle => .next s
      | .trapped t => .next t
      | .ready i t => exec i t := rfl

end Sys2Proof.Machine
end

