-- ==== Sys2Proof/Laws/PerInstr.lean ====
section
/-! SUPPORT. Statements about every instruction as syntax, one lemma per constructor. Family EncodingShape: an encoding has as
many words as the instruction (R80), and its first word has the opcode the map gives it (R81, R88). -/

namespace Sys2Proof.Laws.EncodingShape

/-- R80, R81, R88: the length of an instruction's encoding, and what the opcode byte of its first word selects. -/
def Statement (i : Instr) : Prop :=
  (encode i).length = i.words ∧ ((encode i).head?.map fun w => Op.ofByte (opcodeField w)) = some (some i.op)

theorem nop : Statement .nop :=
  ⟨rfl, by simp only [encode, List.head?_cons, Option.map_some, opcodeField_instrWord]; rfl⟩
theorem halt : Statement .halt :=
  ⟨rfl, by simp only [encode, List.head?_cons, Option.map_some, opcodeField_instrWord]; rfl⟩
theorem loadInd (d : Reg) (a : Reg) : Statement (.loadInd d a) :=
  ⟨rfl, by simp only [encode, List.head?_cons, Option.map_some, opcodeField_instrWord]; rfl⟩
theorem loadImm4 (d : Reg) (i : Nibble) : Statement (.loadImm4 d i) :=
  ⟨rfl, by simp only [encode, List.head?_cons, Option.map_some, opcodeField_instrWord]; rfl⟩
theorem loadReg (d : Reg) (s : Reg) : Statement (.loadReg d s) :=
  ⟨rfl, by simp only [encode, List.head?_cons, Option.map_some, opcodeField_instrWord]; rfl⟩
theorem loadImm16 (d : Reg) (i : Word) : Statement (.loadImm16 d i) :=
  ⟨rfl, by simp only [encode, List.head?_cons, Option.map_some, opcodeField_instrWord]; rfl⟩
theorem storeIndReg (a : Reg) (s : Reg) : Statement (.storeIndReg a s) :=
  ⟨rfl, by simp only [encode, List.head?_cons, Option.map_some, opcodeField_instrWord]; rfl⟩
theorem storeIndImm4 (i : Nibble) (a : Reg) : Statement (.storeIndImm4 i a) :=
  ⟨rfl, by simp only [encode, List.head?_cons, Option.map_some, opcodeField_instrWord]; rfl⟩
theorem add (a : Reg) (r : Reg) : Statement (.add a r) :=
  ⟨rfl, by simp only [encode, List.head?_cons, Option.map_some, opcodeField_instrWord]; rfl⟩
theorem adc (a : Reg) (r : Reg) : Statement (.adc a r) :=
  ⟨rfl, by simp only [encode, List.head?_cons, Option.map_some, opcodeField_instrWord]; rfl⟩
theorem lnot (r : Reg) : Statement (.lnot r) :=
  ⟨rfl, by simp only [encode, List.head?_cons, Option.map_some, opcodeField_instrWord]; rfl⟩
theorem land (a : Reg) (r : Reg) : Statement (.land a r) :=
  ⟨rfl, by simp only [encode, List.head?_cons, Option.map_some, opcodeField_instrWord]; rfl⟩
theorem lor (a : Reg) (r : Reg) : Statement (.lor a r) :=
  ⟨rfl, by simp only [encode, List.head?_cons, Option.map_some, opcodeField_instrWord]; rfl⟩
theorem lxor (a : Reg) (r : Reg) : Statement (.lxor a r) :=
  ⟨rfl, by simp only [encode, List.head?_cons, Option.map_some, opcodeField_instrWord]; rfl⟩
theorem cmpReg (a : Reg) (r : Reg) : Statement (.cmpReg a r) :=
  ⟨rfl, by simp only [encode, List.head?_cons, Option.map_some, opcodeField_instrWord]; rfl⟩
theorem cmpImm4 (a : Reg) (i : Nibble) : Statement (.cmpImm4 a i) :=
  ⟨rfl, by simp only [encode, List.head?_cons, Option.map_some, opcodeField_instrWord]; rfl⟩
theorem cmpImm16 (a : Reg) (i : Word) : Statement (.cmpImm16 a i) :=
  ⟨rfl, by simp only [encode, List.head?_cons, Option.map_some, opcodeField_instrWord]; rfl⟩
theorem jmpr (o : Int) : Statement (.jmpr o) :=
  ⟨rfl, by simp only [encode, List.head?_cons, Option.map_some, opcodeField_append]; rfl⟩
theorem jmp (c : CondCode) (t : Word) : Statement (.jmp c t) :=
  ⟨rfl, by simp only [encode, List.head?_cons, Option.map_some, opcodeField_instrWord]; rfl⟩

end Sys2Proof.Laws.EncodingShape
end

