-- ==== Sys2Proof/Tests/Slice0.lean ====
section
/-! SUPPORT. The model's own tests, one step each, with results from spec/95_test_vectors.md and words written out from the
encodings of spec/30_encoding.md R82 and R88; and a witness for the hypotheses of each obligation that has any. -/

namespace Sys2Proof.Tests
open Sys2Proof Sys2Proof.Machine Sys2Proof.Claims

/-! ## Small states -/

/-- Right after reset, with words at 0x0100 (R264). -/
def prog (ws : List Word) : State := State.reset.loadmem ws ws.length 0x0100

/-- The state with one register set. -/
def reg (r : Reg) (v : Word) (s : State) : State := s.writeReg r v

/-- The state with FLAGS set. -/
def flags (f : Word) (s : State) : State := s.setFlags f

/-- The state with a capacity of N words. -/
def capacity (n : Nat) (s : State) : State := { s with cfg := { s.cfg with memWords := n } }

/-- The state with SUB_OVERFLOW_RULE = true_signed. -/
def trueSigned (s : State) : State := { s with cfg := { s.cfg with subOverflowRule := .trueSigned } }

/-- The state with ADC_RULE = full_sum. -/
def fullSum (s : State) : State := { s with cfg := { s.cfg with adcRule := .fullSum } }

/-- The state after one `run_once`. -/
def after (s : State) : State :=
  match step s with
  | .next t => t
  | .fault _ => s
  | .refused _ => s

/-- A register, FLAGS and PC after one `run_once`. -/
def seen (r : Reg) (s : State) : Word × Word × Word := ((after s).readReg r, (after s).flags, (after s).pc)

/-! ## Well-formedness: the one check, and ill-formed terms it refuses (R85) -/

theorem test_wellFormed_refuses_offset_128 : (Instr.jmpr 128).wellFormed = false := by decide
theorem test_wellFormed_refuses_offset_minus_129 : (Instr.jmpr (-129)).wellFormed = false := by decide
theorem test_wellFormed_takes_offset_127 : (Instr.jmpr 127).wellFormed = true := by decide
theorem test_wellFormed_takes_offset_minus_128 : (Instr.jmpr (-128)).wellFormed = true := by decide

/-! ## Decoding, one word of each row of R88, bit by bit -/

theorem test_decode_nop : decode [0b1111111111111111#16] = .ok (.nop, []) := by decide
theorem test_decode_halt : decode [0b1111100010101011#16] = .ok (.halt, []) := by decide
theorem test_decode_loadInd : decode [0b0000000000100001#16] = .ok (.loadInd 2 1, []) := by decide
theorem test_decode_loadImm4 : decode [0b0000000110101000#16] = .ok (.loadImm4 10 8#4, []) := by decide
theorem test_decode_loadReg : decode [0b0000001000110101#16] = .ok (.loadReg 3 5, []) := by decide
theorem test_decode_loadImm16 :
    decode [0b0000001111110111#16, 0x8000#16] = .ok (.loadImm16 15 0x8000#16, []) := by decide
theorem test_decode_storeIndReg : decode [0b0001000001010010#16] = .ok (.storeIndReg 5 2, []) := by decide
theorem test_decode_storeIndImm4 : decode [0b0001000111110000#16] = .ok (.storeIndImm4 15#4 0, []) := by decide
theorem test_decode_add : decode [0b0010000000010010#16] = .ok (.add 1 2, []) := by decide
theorem test_decode_adc : decode [0b0010000100010010#16] = .ok (.adc 1 2, []) := by decide
theorem test_decode_lnot : decode [0b0011000011110100#16] = .ok (.lnot 4, []) := by decide
theorem test_decode_land : decode [0b0011000100010010#16] = .ok (.land 1 2, []) := by decide
theorem test_decode_lor : decode [0b0011001000010010#16] = .ok (.lor 1 2, []) := by decide
theorem test_decode_lxor : decode [0b0011001101100111#16] = .ok (.lxor 6 7, []) := by decide
theorem test_decode_cmpReg : decode [0b0100000000010010#16] = .ok (.cmpReg 1 2, []) := by decide
theorem test_decode_cmpImm4 : decode [0b0100000100110101#16] = .ok (.cmpImm4 3 5#4, []) := by decide
theorem test_decode_cmpImm16 :
    decode [0b0100001000101111#16, 0xFFFF#16] = .ok (.cmpImm16 2 0xFFFF#16, []) := by decide
theorem test_decode_jmpr : decode [0b0101000010000000#16] = .ok (.jmpr (-128), []) := by decide
theorem test_decode_jmp : decode [0b0101000111111110#16, 0x01FE#16] = .ok (.jmp 14 0x01FE#16, []) := by decide

/-- R89, R80: the refusals of the decoder, by name. -/
theorem test_decode_refuses :
    decode [0x1200#16] = .error (.illegalOpcode 0x12#8) ∧ decode [0x4300#16, 0x1234#16] = .error (.illegalOpcode 0x43#8)
      ∧ decode [0x5101#16] = .error .noOperandWord ∧ decode [] = .error .noInstructionWord := by decide

/-- The numbering of spec/opcode_table.json: the first word in bits 15 to 0, the second above it. -/
theorem test_table_word_numbering : decodeTableWord 32 0x12340350 = some (.loadImm16 5 0x1234#16)
    ∧ decodeTableWord 16 0x5101 = some (.jmp 1 0x0000#16) := by decide

/-! ## FLAGS (R24) -/

theorem test_flag_bits :
    (flags 0x0001 State.reset).flagZ = true ∧ (flags 0x0002 State.reset).flagN = true
      ∧ (flags 0x0004 State.reset).flagV = true ∧ (flags 0x0008 State.reset).flagC = true
      ∧ (flags 0x0100 State.reset).halted = true ∧ (flags 0xFEF0 State.reset).halted = false := by decide

/-! ## System (spec/95 S2, S3, S5, S9) -/

theorem test_nop_S2 : seen 0 (flags 0x000F (prog [0xFFFF])) = (0x0000#16, 0x000F#16, 0x0101#16) := by decide
theorem test_nop_wraps_S9 : (after { State.reset.memWrite 0xFFFF 0xFF00 with pc := 0xFFFF#16 }).pc = 0x0000#16 := by decide
theorem test_halt_S3 : seen 0 (flags 0x0009 (prog [0xF800])) = (0x0000#16, 0x0109#16, 0x0101#16)
    ∧ (after (prog [0xF800])).faultRecord = (.none, 0x0000#16) := by decide
theorem test_illegal_S5 : seen 0 (flags 0x0005 (prog [0x1200])) = (0x0000#16, 0x0105#16, 0x0101#16)
    ∧ (after (prog [0x1200])).faultRecord = (.illegalOpcode, 0x0100#16) ∧ (after (prog [0x1200])).ir = 0x1200#16 := by decide

/-! ## Loads and stores (spec/95 M1 to M20, from FLAGS = 0x000C) -/

theorem test_loadInd_M1 :
    seen 2 (flags 0x000C (reg 1 0x0200 ((prog [0x0021]).memWrite 0x0200 0x8001))) = (0x8001#16, 0x000E#16, 0x0101#16) := by
  decide
theorem test_loadInd_traps_M4 :
    let s := capacity 0x0200 (flags 0x000C (reg 1 0x0200 (prog [0x0021])))
    seen 2 s = (0x0000#16, 0x010C#16, 0x0101#16) ∧ (after s).faultRecord = (.addressOutOfRange, 0x0200#16) := by decide
theorem test_loadImm4_M7 : seen 10 (flags 0x000C (prog [0x01A8])) = (0x0008#16, 0x000C#16, 0x0101#16) := by decide
theorem test_loadReg_M8 :
    seen 3 (flags 0x000C (reg 3 0x7777 (prog [0x0235]))) = (0x0000#16, 0x000D#16, 0x0101#16) := by decide
theorem test_loadImm16_M11 : seen 15 (flags 0x000C (prog [0x03F7, 0x8000])) = (0x8000#16, 0x000E#16, 0x0102#16) := by decide
theorem test_loadImm16_operand_traps_M12 :
    let s := { capacity 0x0200 (flags 0x000C (State.reset.memWrite 0x01FF 0x0350)) with pc := 0x01FF#16 }
    seen 5 s = (0x0000#16, 0x010C#16, 0x0200#16) ∧ (after s).faultRecord = (.addressOutOfRange, 0x0200#16) := by decide
theorem test_storeIndReg_M16 :
    let s := flags 0x000C (reg 2 0x9000 (reg 5 0x0200 (prog [0x1052])))
    (after s).memRead 0x0200 = 0x9000#16 ∧ (after s).flags = 0x000E#16 := by decide
theorem test_storeIndReg_traps_M17 :
    let s := capacity 0x0200 (flags 0x000C (reg 1 0xFFFF (prog [0x1012])))
    (after s).mem = s.mem ∧ (after s).flags = 0x010C#16 ∧ (after s).faultRecord = (.addressOutOfRange, 0xFFFF#16) := by decide
theorem test_storeIndImm4_M18 :
    let s := flags 0x000C (prog [0x11F0])
    (after s).memRead 0x0000 = 0x000F#16 ∧ (after s).flags = 0x000C#16 := by decide
theorem test_storeIndImm4_M20 :
    let s := reg 1 0x0101 (prog [0x1101, 0xF800])
    (after s).memRead 0x0101 = 0x0000#16 ∧ (after s).flags = 0x0001#16 := by decide

/-! ## Arithmetic (spec/95 2.3, 2.4) -/

theorem test_add_overflow : seen 1 (reg 1 0x7FFF (reg 2 0x0001 (prog [0x2012]))) = (0x8000#16, 0x0006#16, 0x0101#16) := by
  decide
theorem test_add_same_register : seen 1 (reg 1 0x8001 (prog [0x2011])) = (0x0002#16, 0x000C#16, 0x0101#16) := by decide
theorem test_adc_increment_then_add :
    seen 1 (flags 0x0008 (reg 1 0x7FFF (reg 2 0x0000 (prog [0x2112])))) = (0x8000#16, 0x0002#16, 0x0101#16)
      ∧ seen 2 (flags 0x0008 (reg 2 0x0003 (prog [0x2122]))) = (0x0007#16, 0x0000#16, 0x0101#16) := by decide
theorem test_adc_full_sum :
    seen 1 (fullSum (flags 0x0008 (reg 1 0x7FFF (reg 2 0x0000 (prog [0x2112]))))) = (0x8000#16, 0x0006#16, 0x0101#16)
      ∧ seen 1 (fullSum (flags 0x0008 (reg 1 0xFFFF (prog [0x2112])))) = (0x0000#16, 0x0009#16, 0x0101#16) := by decide

/-! ## Logic (spec/95 G3, G4, G6, G8, from FLAGS = 0x000C) -/

theorem test_lnot_G3 : seen 4 (flags 0x000C (prog [0x30F4])) = (0xFFFF#16, 0x000E#16, 0x0101#16) := by decide
theorem test_land_G4 :
    seen 1 (flags 0x000C (reg 1 0xF0F0 (reg 2 0x0FF0 (prog [0x3112])))) = (0x00F0#16, 0x000C#16, 0x0101#16) := by decide
theorem test_lor_G6 :
    seen 1 (flags 0x000C (reg 1 0x8000 (reg 2 0x0001 (prog [0x3212])))) = (0x8001#16, 0x000E#16, 0x0101#16) := by decide
theorem test_lxor_G8 :
    seen 6 (flags 0x000C (reg 6 0x1234 (reg 7 0x00FF (prog [0x3367])))) = (0x12CB#16, 0x000C#16, 0x0101#16) := by decide

/-! ## Compare (spec/95 2.6) -/

theorem test_cmpReg_formula_as_written :
    seen 1 (reg 1 0x0000 (reg 2 0x0001 (prog [0x4012]))) = (0x0000#16, 0x000E#16, 0x0101#16)
      ∧ seen 1 (reg 1 0xFFFF (reg 2 0xFFFF (prog [0x4012]))) = (0xFFFF#16, 0x0005#16, 0x0101#16) := by decide
theorem test_cmpReg_true_signed :
    seen 1 (trueSigned (reg 1 0x8000 (reg 2 0x0001 (prog [0x4012])))) = (0x8000#16, 0x0004#16, 0x0101#16)
      ∧ seen 1 (trueSigned (reg 1 0x0000 (reg 2 0x0001 (prog [0x4012])))) = (0x0000#16, 0x000A#16, 0x0101#16) := by decide
theorem test_cmpImm4 : seen 3 (reg 3 0x0003 (prog [0x4135])) = (0x0003#16, 0x000E#16, 0x0101#16) := by decide
theorem test_cmpImm16 : seen 2 (prog [0x422F, 0xFFFF]) = (0x0000#16, 0x0008#16, 0x0102#16)
    ∧ seen 2 (reg 2 0x1234 (prog [0x4220, 0x1234])) = (0x1234#16, 0x0001#16, 0x0102#16) := by decide

/-! ## Control (spec/95 2.7, 2.8) -/

/-- The codes 0 to 15 under the default COND_TABLE, for one value of FLAGS[3:0]. -/
def condRow (f : Word) : List (Option Bool) := (List.finRange 16).map fun c => (flags f State.reset).evalCond c

/-- The row of the truth table 2.7 for FLAGS[3:0] = 0x6. -/
theorem test_conditions_6 : condRow 0x0006 =
    [some true, some false, some false, some false, some false, some false, some true, some true,
      some false, some false, some true, some true, some true, some true, some true, none] := by decide
/-- The row of the truth table 2.7 for FLAGS[3:0] = 0x9. -/
theorem test_conditions_9 : condRow 0x0009 =
    [some true, some true, some true, some true, some false, some true, some false, some false,
      some true, some true, some false, some true, some false, some false, some false, none] := by decide

theorem test_jmpr_J4 : seen 0 (flags 0x000F (prog [0x5080])) = (0x0000#16, 0x000F#16, 0x0081#16) := by decide
theorem test_jmpr_wraps_J6 : (after { State.reset.memWrite 0xFFF0 0x507F with pc := 0xFFF0#16 }).pc = 0x0070#16 := by decide
theorem test_jmp_J10_J9 :
    (after (flags 0x0001 (prog [0x5101, 0x0200]))).pc = 0x0200#16 ∧ (after (prog [0x5101, 0x0200])).pc = 0x0102#16 := by decide
theorem test_jmp_J11_J17 :
    seen 0 (flags 0x000F (prog [0x510F, 0x0200])) = (0x0000#16, 0x000F#16, 0x0102#16)
      ∧ (after { (State.reset.memWrite 0xFFFF 0x5100).memWrite 0x0000 0x0123 with pc := 0xFFFF#16 }).pc = 0x0123#16 := by decide

/-! ## Faults, reset, loadmem (spec/95 X1, X2, X8, X9) -/

theorem test_fetch_traps_X1 :
    let s := capacity 0x0100 State.reset
    seen 0 s = (0x0000#16, 0x0100#16, 0x0100#16) ∧ (after s).faultRecord = (.addressOutOfRange, 0x0100#16) := by decide
theorem test_illegal_comes_first_X2 :
    let s := { capacity 0x0200 (State.reset.memWrite 0x01FF 0x4300) with pc := 0x01FF#16 }
    (after s).faultRecord = (.illegalOpcode, 0x01FF#16) ∧ (after s).pc = 0x0200#16 := by decide
theorem test_loadmem_truncates_X8_X9 :
    ((capacity 0x0200 State.reset).loadmem [1#16, 2#16, 3#16] 3 0x01FE).mem = [(0x01FE, 1#16), (0x01FF, 2#16)]
      ∧ ((capacity 0x0200 State.reset).loadmem [1#16] 1 0x0200).mem = [] := by decide
theorem test_first_instruction_after_reset :
    (after (State.reset.withFetchWord 32 0x12340350)).readReg 5 = 0x1234#16 := by decide

/-! ## Witnesses: a state and operands that meet the hypotheses of each obligation that has any, with its clauses at the ends of
their ranges -/

/-- Capacity 0x0200, one address register just below it and one at it. -/
def edge (ws : List Word) : State := reg 1 0x01FF (reg 3 0x0200 (capacity 0x0200 (prog ws)))

/-- In `edge`, the last existing address and the first that does not exist. -/
theorem witness_LoadIndLoadsOrTraps :
    ((edge []).readReg 1).toNat < (edge []).cfg.memWords ∧ (edge []).cfg.memWords ≤ ((edge []).readReg 3).toNat := by decide
theorem witness_StoreIndRegStoresOrTraps :
    ((edge []).readReg 1).toNat < (edge []).cfg.memWords ∧ (edge []).cfg.memWords ≤ ((edge []).readReg 3).toNat := by decide
theorem witness_StoreIndImm4StoresOrTraps :
    ((edge []).readReg 1).toNat < (edge []).cfg.memWords ∧ (edge []).cfg.memWords ≤ ((edge []).readReg 3).toNat := by decide
/-- Under each rule, with CARRY set and the accumulator at 0xFFFF. -/
theorem witness_AdcAddsTheCarryUnderBothRules :
    (flags 0x0008 (reg 1 0xFFFF State.reset)).cfg.adcRule = .incrementThenAdd
      ∧ (fullSum (flags 0x0008 (reg 1 0xFFFF State.reset))).cfg.adcRule = .fullSum := by decide
/-- Each form of compare, with the operands it compares, and the least width. -/
theorem witness_CompareCarryIsTheWidenedDifference :
    compareOperands (.cmpReg 1 3) (edge []) = some (0x01FF#16, 0x0200#16)
      ∧ compareOperands (.cmpImm4 1 15#4) (edge []) = some (0x01FF#16, 0x000F#16)
      ∧ compareOperands (.cmpImm16 1 0xFFFF#16) (edge []) = some (0x01FF#16, 0xFFFF#16) ∧ 17 ≤ 17 := by decide
theorem witness_TrueSignedCompareOrdersSigned :
    let s := trueSigned (reg 1 0x8000 (reg 2 0x7FFF State.reset))
    s.cfg.subOverflowRule = .trueSigned ∧ compareOperands (.cmpReg 1 2) s = some (0x8000#16, 0x7FFF#16)
      ∧ compareOperands (.cmpImm4 1 1#4) s = some (0x8000#16, 0x0001#16)
      ∧ compareOperands (.cmpImm16 1 0x7FFF#16) s = some (0x8000#16, 0x7FFF#16) := by decide
theorem witness_CompareRulesDifferByBit15 :
    compareOperands (.cmpReg 1 3) (edge []) = some (0x01FF#16, 0x0200#16)
      ∧ compareOperands (.cmpImm4 1 15#4) (edge []) = some (0x01FF#16, 0x000F#16)
      ∧ compareOperands (.cmpImm16 1 0xFFFF#16) (edge []) = some (0x01FF#16, 0xFFFF#16) := by decide
/-- A condition that holds, one that does not, and one that is undefined. -/
theorem witness_JmpGoesToItsTargetIfTheConditionHolds :
    State.reset.evalCond 0 = some true ∧ State.reset.evalCond 1 = some false ∧ State.reset.evalCond 15 = none := by decide
theorem witness_ConditionCodesTestTheFlags : State.reset.cfg.condTable = CondTable.specDefault
    ∧ 1 ≤ (1 : CondCode).val ∧ (1 : CondCode).val ≤ 7 ∧ 1 ≤ (7 : CondCode).val ∧ (7 : CondCode).val ≤ 7 := by decide
theorem witness_DecodeOfEncodeIsTheInstruction :
    (Instr.jmpr (-128)).wellFormed = true ∧ (Instr.jmpr 127).wellFormed = true ∧ (Instr.jmp 15 0xFFFF).wellFormed = true := by
  decide
/-- A two-word instruction as the last words, a one-word instruction before another word, and one as the only word; ignored fields not
0. -/
theorem witness_EncodeOfDecodeKeepsTheUsedBits :
    decode (0x03F7#16 :: [0x8000#16]) = .ok (.loadImm16 15 0x8000#16, [])
      ∧ decode (0x30F4#16 :: [0x8000#16]) = .ok (.lnot 4, [0x8000#16])
      ∧ decode (0xF8AB#16 :: []) = .ok (.halt, []) := by decide
theorem witness_IgnoredFieldsDoNotChangeDecoding :
    opcodeField 0x03F7#16 = opcodeField 0x03F0#16
      ∧ 0x03F7#16 &&& usedBits (opcodeField 0x03F7#16) = 0x03F0#16 &&& usedBits (opcodeField 0x03F7#16) := by decide
/-- A running state at a two-word instruction, and at a one-word instruction in the last word of memory. -/
theorem witness_StepRunsTheDecodedInstruction :
    ((prog [0x0350, 0x1234]).running ∧ decode (prog [0x0350, 0x1234]).fetchWindow = .ok (.loadImm16 5 0x1234#16, []))
      ∧ ((capacity 0x0101 (prog [0xFF00])).running
          ∧ decode (capacity 0x0101 (prog [0xFF00])).fetchWindow = .ok (.nop, [])) :=
  ⟨⟨⟨by decide, by decide⟩, by decide⟩, ⟨by decide, by decide⟩, by decide⟩
/-- A JMPR, a JMP and a two-word and a one-word instruction that is no jump. -/
theorem witness_PcAdvancesPerInstruction :
    ((prog [0x5080]).running ∧ decode (prog [0x5080]).fetchWindow = .ok (.jmpr (-128), [0x0000#16]))
      ∧ ((prog [0x5100, 0xFFFF]).running ∧ decode (prog [0x5100, 0xFFFF]).fetchWindow = .ok (.jmp 0 0xFFFF#16, []))
      ∧ ((prog [0x4220, 1]).running ∧ decode (prog [0x4220, 1]).fetchWindow = .ok (.cmpImm16 2 1#16, []))
      ∧ ((prog [0xFF00]).running ∧ decode (prog [0xFF00]).fetchWindow = .ok (.nop, [0x0000#16])) :=
  ⟨⟨⟨by decide, by decide⟩, by decide⟩, ⟨⟨by decide, by decide⟩, by decide⟩, ⟨⟨by decide, by decide⟩, by decide⟩,
    ⟨by decide, by decide⟩, by decide⟩
theorem witness_HaltedCyclesChangeNothing :
    (after (prog [0xF800])).resetDone = true ∧ (after (prog [0xF800])).halted = true := by decide
theorem witness_RunBeforeResetIsRefused : (State.construct Config.specDefault [] State.reset).resetDone = false := by decide
/-- PC at N, the first address that does not exist. -/
theorem witness_FetchOutOfRangeTraps :
    (capacity 0x0100 State.reset).running
      ∧ (capacity 0x0100 State.reset).cfg.memWords ≤ (capacity 0x0100 State.reset).pc.toNat :=
  ⟨⟨by decide, by decide⟩, by decide⟩
/-- A two-word opcode in the last word of memory. -/
def lastWord (w : Word) : State := capacity 0x0101 (prog [w])

theorem witness_OperandFetchOutOfRangeTraps :
    (lastWord 0x0350).running ∧ (lastWord 0x0350).pc.toNat < (lastWord 0x0350).cfg.memWords
      ∧ takesOperand (opcodeField ((lastWord 0x0350).memRead (lastWord 0x0350).pc)) = true
      ∧ (lastWord 0x0350).cfg.memWords ≤ ((lastWord 0x0350).pc + 1#16).toNat :=
  ⟨⟨by decide, by decide⟩, by decide, by decide, by decide⟩
/-- The lowest and the highest illegal opcode, each in the last word of memory. -/
theorem witness_IllegalOpcodeTraps :
    ((lastWord 0x0400).running ∧ (lastWord 0x0400).pc.toNat < (lastWord 0x0400).cfg.memWords
      ∧ illegalByte (opcodeField ((lastWord 0x0400).memRead (lastWord 0x0400).pc)) = true)
    ∧ ((lastWord 0xFE00).running ∧ (lastWord 0xFE00).pc.toNat < (lastWord 0xFE00).cfg.memWords
      ∧ illegalByte (opcodeField ((lastWord 0xFE00).memRead (lastWord 0xFE00).pc)) = true) :=
  ⟨⟨⟨by decide, by decide⟩, by decide, by decide⟩, ⟨by decide, by decide⟩, by decide, by decide⟩
/-- A running state for each check of the order of R235, and one that passes them all. -/
theorem witness_FirstFailingCheckIsRecorded :
    (capacity 0x0100 State.reset).running ∧ (lastWord 0x4300).running ∧ (lastWord 0x4220).running
      ∧ ((edge [0x0023]).running ∧ dataAddress 0x0023 (edge [0x0023]) = some 0x0200#16)
      ∧ ((edge [0x0021]).running ∧ dataAddress 0x0021 (edge [0x0021]) = some 0x01FF#16)
      ∧ ((edge [0xFF00]).running ∧ dataAddress 0xFF00 (edge [0xFF00]) = none) :=
  ⟨⟨by decide, by decide⟩, ⟨by decide, by decide⟩, ⟨by decide, by decide⟩, ⟨⟨by decide, by decide⟩, by decide⟩,
    ⟨⟨by decide, by decide⟩, by decide⟩, ⟨by decide, by decide⟩, by decide⟩
/-- A store, a HALT, a store that traps, and a fetch that traps. -/
theorem witness_CyclesCommitWholeOrTrapClean :
    ((edge [0x1012]).running ∧ (edge [0x1012]).faultCause = .none ∧ (∃ t, step (edge [0x1012]) = .next t ∧ t.faultCause = .none)
        ∧ (edge [0x1012]).cycleStore = some (0x01FF#16, 0x0000#16))
      ∧ ((edge [0xF800]).running ∧ (edge [0xF800]).faultCause = .none
          ∧ ∃ t, step (edge [0xF800]) = .next t ∧ t.faultCause = .none ∧ t.halted = true)
      ∧ ((edge [0x1032]).running ∧ (edge [0x1032]).faultCause = .none
          ∧ ∃ t, step (edge [0x1032]) = .next t ∧ t.faultCause ≠ .none)
      ∧ ((capacity 0x0100 State.reset).running ∧ (capacity 0x0100 State.reset).faultCause = .none
          ∧ ∃ t, step (capacity 0x0100 State.reset) = .next t ∧ t.faultCause ≠ .none) :=
  ⟨⟨⟨by decide, by decide⟩, by decide, ⟨after (edge [0x1012]), rfl, by decide⟩, by decide⟩,
    ⟨⟨by decide, by decide⟩, by decide, after (edge [0xF800]), rfl, by decide, by decide⟩,
    ⟨⟨by decide, by decide⟩, by decide, after (edge [0x1032]), rfl, by decide⟩,
    ⟨by decide, by decide⟩, by decide, after (capacity 0x0100 State.reset), rfl, by decide⟩
/-- A cycle that runs HALT, and one that neither halts nor traps. -/
theorem witness_OnlyHaltAndTrapsHalt :
    ((prog [0xF800]).running ∧ (prog [0xF800]).faultCause = .none ∧ ∃ t, step (prog [0xF800]) = .next t ∧ t.halted = true)
      ∧ ((prog [0xFF00]).running ∧ (prog [0xFF00]).faultCause = .none
          ∧ ∃ t, step (prog [0xFF00]) = .next t ∧ t.halted = false) :=
  ⟨⟨⟨by decide, by decide⟩, by decide, after (prog [0xF800]), rfl, by decide⟩,
    ⟨by decide, by decide⟩, by decide, after (prog [0xFF00]), rfl, by decide⟩
/-- An execute step that sets HALT by HALT, and one that sets it by a trap. -/
theorem witness_FlagsWrittenAreThoseOfTheTable :
    (∃ t, Machine.exec .halt (edge []) = .next t ∧ (edge []).faultCause = .none ∧ t.halted ≠ (edge []).halted)
      ∧ ∃ t, Machine.exec (.loadInd 2 3) (edge []) = .next t ∧ (edge []).faultCause = .none ∧ t.halted ≠ (edge []).halted :=
  ⟨⟨(edge []).setHalt, rfl, by decide, by decide⟩, (edge []).raise .addressOutOfRange 0x0200#16, rfl, by decide, by decide⟩
theorem witness_OnlyTheDestinationRegisterIsWritten :
    (∃ t, Machine.exec (.loadImm4 2 9#4) (edge []) = .next t ∧ destination (.loadImm4 2 9#4) = some 2)
      ∧ ∃ t, Machine.exec .nop (edge []) = .next t ∧ destination .nop = none :=
  ⟨⟨(edge []).commitZN 2 0x0009#16, rfl, rfl⟩, edge [], rfl, rfl⟩
theorem witness_ReservedStateIsNeverDriven : ∃ t, step (edge [0x2012]) = .next t ∧ t ≠ edge [0x2012] :=
  ⟨after (edge [0x2012]), rfl, by decide⟩
/-- A store in the last word of memory, and one past it that is not made. -/
theorem witness_MemWriteChangesOneWord : (edge [0x1113]).cycleStore = none
    ∧ (edge [0x1191]).cycleStore = some (0x01FF#16, 0x0009#16) := by decide
/-- A step that stores and one that does not, and a `loadmem`. -/
theorem witness_OnlyStoresAndLoadmemWriteMemory :
    (∃ t, step (edge [0x1191]) = .next t ∧ (edge [0x1191]).cycleStore.isSome = true)
      ∧ (∃ t, step (edge [0x2012]) = .next t ∧ (edge [0x2012]).cycleStore = none)
      ∧ ∃ t, applyHost (.loadmem [7#16] 1 0) (edge []) = .next t ∧ t.mem.read 0 = 7#16 :=
  ⟨⟨after (edge [0x1191]), rfl, by decide⟩, ⟨after (edge [0x2012]), rfl, by decide⟩,
    (edge []).loadmem [7#16] 1 0, rfl, by decide⟩
/-- A run that loads a program, resets, and runs its STORE: the last write at the address is the STORE's. -/
theorem witness_MemoryHoldsTheLastWrite :
    ∃ t, runHost [.loadmem [0x11F0#16] 1 0x0100, .loadmem [7#16] 1 0, .reset, .runOnce] State.reset = .next t
      ∧ t.mem.read 0 = 0x000F#16 ∧ t.mem.read 0x0100 = 0x11F0#16 :=
  ⟨after ((prog [0x11F0]).loadmem [7#16] 1 0).resetOp, rfl, by decide, by decide⟩
/-- A STORE to the next word (spec/95 M20). -/
theorem witness_NextFetchSeesTheStore :
    let s := reg 1 0x0101 (prog [0x1101, 0xF800])
    s.running ∧ (∃ t, step s = .next t ∧ t.pc = 0x0101#16) ∧ s.cycleStore = some (0x0101#16, 0x0000#16) :=
  ⟨⟨by decide, by decide⟩, ⟨after (reg 1 0x0101 (prog [0x1101, 0xF800])), rfl, by decide⟩, by decide⟩
/-- A store, a load, a two-word opcode, a load and an operand fetch past the end of memory, and a fetch there; and a halted state and
one before its first reset. -/
theorem witness_AccessesExistAndComeInOrder :
    ((edge [0x1191]).running
        ∧ tableAccesses (edge [0x1191]) = [⟨.instructionFetch, 0x0100#16⟩, ⟨.dataWrite, 0x01FF#16⟩])
      ∧ ((edge [0x0021]).running
        ∧ tableAccesses (edge [0x0021]) = [⟨.instructionFetch, 0x0100#16⟩, ⟨.dataRead, 0x01FF#16⟩])
      ∧ ((edge [0x4220]).running
        ∧ tableAccesses (edge [0x4220]) = [⟨.instructionFetch, 0x0100#16⟩, ⟨.operandFetch, 0x0101#16⟩])
      ∧ ((edge [0x0023]).running ∧ tableAccesses (edge [0x0023]) = [⟨.instructionFetch, 0x0100#16⟩])
      ∧ ((lastWord 0x4220).running ∧ tableAccesses (lastWord 0x4220) = [⟨.instructionFetch, 0x0100#16⟩])
      ∧ ((capacity 0x0100 State.reset).running ∧ tableAccesses (capacity 0x0100 State.reset) = [])
      ∧ ¬ (after (prog [0xF800])).running ∧ ¬ (State.construct Config.specDefault [] State.reset).running :=
  ⟨⟨⟨by decide, by decide⟩, by decide⟩, ⟨⟨by decide, by decide⟩, by decide⟩, ⟨⟨by decide, by decide⟩, by decide⟩,
    ⟨⟨by decide, by decide⟩, by decide⟩, ⟨⟨by decide, by decide⟩, by decide⟩, ⟨⟨by decide, by decide⟩, by decide⟩,
    fun h => absurd h.2 (by decide), fun h => absurd h.1 (by decide)⟩
/-- A load, and another memory that differs from the first at an address the cycle does not read. -/
theorem witness_CyclesReadOnlyTheirAccesses :
    (∃ t, step (edge [0x0021]) = .next t)
      ∧ ((edge [0x0021]).mem.write 0x0000 0x0007).read 0x0000 ≠ (edge [0x0021]).mem.read 0x0000
      ∧ ∀ x ∈ (edge [0x0021]).accesses, x.kind ≠ .dataWrite →
          ((edge [0x0021]).mem.write 0x0000 0x0007).read x.addr.toNat = (edge [0x0021]).mem.read x.addr.toNat :=
  ⟨⟨after (edge [0x0021]), rfl⟩, by decide, by decide⟩
theorem witness_CanonicalMemoriesReadingAlikeAreEqual :
    let m : Memory := [(0x0000, 0x0001#16), (0xFFFF, 0x0002#16)]
    m.wf ∧ ((Memory.write [] 0xFFFF 0x0002).write 0x0000 0x0001).wf
      ∧ ∀ a, m.read a = ((Memory.write [] 0xFFFF 0x0002).write 0x0000 0x0001).read a :=
  ⟨by decide, by decide, fun _ => rfl⟩
/-- Two states of one memory and capacity, and a halted state that `reset` takes back to RUNNING. -/
theorem witness_OnlyResetReturnsToRunning :
    (edge []).mem = (reg 7 1 (edge [])).mem ∧ (edge []).cfg = (reg 7 1 (edge [])).cfg
      ∧ ∃ t, applyHost .reset (after (prog [0xF800])) = .next t ∧ (after (prog [0xF800])).halted = true ∧ t.halted = false :=
  ⟨by decide, by decide, (after (prog [0xF800])).resetOp, rfl, by decide, by decide⟩
theorem witness_FirstCycleFetchesAtTheEntryPoint : 0x0100 < (lastWord 0xFF00).cfg.memWords := by decide
/-- A cycle with a trace record and one without. -/
theorem witness_TraceRecordTellsTheFetch :
    (∃ t, step (prog [0x2012]) = .next t ∧ (prog [0x2012]).traceRecord.isSome = true)
      ∧ ∃ t, step (capacity 0x0100 State.reset) = .next t ∧ (capacity 0x0100 State.reset).traceRecord = none :=
  ⟨⟨after (prog [0x2012]), rfl, rfl⟩, after (capacity 0x0100 State.reset), rfl, rfl⟩
theorem witness_PlacedWordsRunAtTheNextStep :
    let s := flags 0x0100 (capacity 0x0102 State.reset)
    s.pc.toNat < s.cfg.memWords ∧ (s.pc + 1#16).toNat < s.cfg.memWords
      ∧ decodeTableWord 32 0x12340350 = some (.loadImm16 5 0x1234#16) := by decide
/-- Reset with a program loaded, and a machine that a trap has halted. -/
theorem witness_InvIsKeptByEveryStep : (prog [0x2012]).Inv ∧ (after (lastWord 0x0400)).Inv :=
  ⟨⟨by decide, by decide, by decide, by decide, rfl, rfl, rfl, rfl⟩,
    ⟨by decide, by decide, by decide, by decide, by decide, by decide, by decide,
      ⟨by decide, by decide, by decide, by decide⟩⟩⟩
theorem witness_InvIsKeptByEveryHostOperation : (after (lastWord 0x0400)).Inv := witness_InvIsKeptByEveryStep.2
theorem witness_InvHoldsAfterAnyHostOperations :
    { Config.specDefault with memWords := 1 }.wf ∧ Memory.wf [(0, 0x0001#16)] ∧ Memory.within [(0, 0x0001#16)] 1 := by decide

end Sys2Proof.Tests
end

section
/-! The invariant at reset (O53). -/

namespace Sys2Proof

/-- R7: the default capacity is a legal one. -/
theorem Config.specDefault_wf : Config.specDefault.wf := by decide

end Sys2Proof

namespace Sys2Proof.Machine

/-- R50: a memory that lists nothing lies within every capacity. -/
theorem Memory.nil_within (n : Nat) : Memory.within [] n := List.forall_mem_nil _

/-- R31: where no trap has been taken, the fault record is true as soon as its address is 0. -/
theorem State.faultRecordTrue_of_noFault {s : State} (hcause : s.faultCause = .none)
    (haddr : s.faultAddr = 0x0000#16) : s.faultRecordTrue := by
  unfold State.faultRecordTrue
  rw [hcause]
  exact haddr

end Sys2Proof.Machine

namespace Sys2Proof.Proofs
open Sys2Proof Sys2Proof.Machine

/-- Settles O53, clause by clause: the default capacity is legal, the empty memory is canonical and within it, FLAGS, SP and
SPX are 0, and no trap has been recorded. -/
theorem invHoldsAtReset : Obligations.InvHoldsAtReset where
  cfgWf := Config.specDefault_wf
  memWf := State.reset_mem_wf
  memWithin := Memory.nil_within _
  flagsReserved := BitVec.zero_and
  spZero := rfl
  spxZero := rfl
  wasReset := rfl
  faultTrue := State.faultRecordTrue_of_noFault rfl rfl

end Sys2Proof.Proofs
end

section
/-! What an execute step can do, whatever the instruction, and what each part of the state is after it. -/

namespace Sys2Proof.Machine
open Sys2Proof.Claims

/-- R115, R116: everything the execute step of `i` in `s` can lead to. -/
inductive ExecEffect (i : Instr) (s : State) : State → Prop
  /-- R141 -/
  | halt (hi : i = .halt) : ExecEffect i s s.setHalt
  /-- R140, R203, R204: at most PC is written -/
  | jump (target : Word) (hi : i ≠ .halt) : ExecEffect i s (s.setPc target)
  /-- R120: a register, Z and N -/
  | commitZN (d : Reg) (r : Word) (hdest : destination i = some d) (hmask : condMask i = maskZN) :
    ExecEffect i s (s.commitZN d r)
  /-- R122: a register, Z, N, C and V -/
  | commitZNCV (d : Reg) (r : Word) (c v : Bool) (hdest : destination i = some d)
    (hmask : condMask i = maskCond) : ExecEffect i s (s.commitZNCV d r c v)
  /-- R123: Z, N, C and V alone -/
  | compare (r : Word) (c v : Bool) (hmask : condMask i = maskCond) : ExecEffect i s (s.setZNCV r c v)
  /-- R154, R155: a word of memory, Z and N -/
  | store (a v : Word) (ha : s.inRange a = true) (hmask : condMask i = maskZN) :
    ExecEffect i s ((s.memWrite a v).setZN v)
  /-- R233, R234: the data trap -/
  | trap (a : Word) (ha : s.inRange a = false) : ExecEffect i s (s.raise .addressOutOfRange a)

theorem storeWord_effect {i : Instr} (a v : Word) (s : State) (hmask : condMask i = maskZN) :
    ∃ t, storeWord a v s = .next t ∧ ExecEffect i s t := by
  obtain ⟨ha, hstore⟩ | ⟨ha, hstore⟩ := storeWord_cases a v s
  · exact ⟨_, hstore, .store a v ha hmask⟩
  · exact ⟨_, hstore, .trap a ha⟩

theorem execLoadInd_effect (dst addr : Reg) (s : State) :
    ∃ t, execLoadInd dst addr s = .next t ∧ ExecEffect (.loadInd dst addr) s t := by
  by_cases ha : s.inRange (s.effectiveAddr addr) = true
  · exact ⟨_, if_pos ha, .commitZN dst _ rfl rfl⟩
  · exact ⟨_, if_neg ha, .trap _ (Bool.eq_false_of_not_eq_true ha)⟩

theorem execAdc_effect (acc reg : Reg) (s : State) :
    ∃ t, execAdc acc reg s = .next t ∧ ExecEffect (.adc acc reg) s t := by
  unfold execAdc
  split
  case h_1 => exact ⟨_, rfl, .commitZNCV acc _ _ _ rfl rfl⟩
  case h_2 => exact ⟨_, rfl, .commitZNCV acc _ _ _ rfl rfl⟩

theorem execJmp_effect (cond : CondCode) (target : Word) (s : State) :
    ∃ t, execJmp cond target s = .next t ∧ ExecEffect (.jmp cond target) s t := by
  unfold execJmp
  split
  case h_1 => exact ⟨_, rfl, .jump target nofun⟩
  case h_2 => exact ⟨_, rfl, .jump s.pc nofun⟩
  case h_3 => exact ⟨_, rfl, .jump s.pc nofun⟩

/-- R116: every execute step answers a next state, and it is one of those of `ExecEffect`. -/
theorem exec_effect (i : Instr) (s : State) : ∃ t, exec i s = .next t ∧ ExecEffect i s t := by
  cases i with
  | nop => exact ⟨s, rfl, .jump s.pc nofun⟩
  | halt => exact ⟨_, rfl, .halt rfl⟩
  | loadInd dst addr => exact execLoadInd_effect dst addr s
  | loadImm4 dst imm => exact ⟨_, rfl, .commitZN dst _ rfl rfl⟩
  | loadReg dst src => exact ⟨_, rfl, .commitZN dst _ rfl rfl⟩
  | loadImm16 dst imm16 => exact ⟨_, rfl, .commitZN dst _ rfl rfl⟩
  | storeIndReg addr src => exact storeWord_effect _ _ s rfl
  | storeIndImm4 imm addr => exact storeWord_effect _ _ s rfl
  | add acc reg => exact ⟨_, rfl, .commitZNCV acc _ _ _ rfl rfl⟩
  | adc acc reg => exact execAdc_effect acc reg s
  | lnot reg => exact ⟨_, rfl, .commitZN reg _ rfl rfl⟩
  | land acc reg => exact ⟨_, rfl, .commitZN acc _ rfl rfl⟩
  | lor acc reg => exact ⟨_, rfl, .commitZN acc _ rfl rfl⟩
  | lxor acc reg => exact ⟨_, rfl, .commitZN acc _ rfl rfl⟩
  | cmpReg acc reg => exact ⟨_, rfl, .compare _ _ _ rfl⟩
  | cmpImm4 acc imm => exact ⟨_, rfl, .compare _ _ _ rfl⟩
  | cmpImm16 acc imm16 => exact ⟨_, rfl, .compare _ _ _ rfl⟩
  | jmpr offset => exact ⟨_, rfl, .jump _ nofun⟩
  | jmp cond target => exact execJmp_effect cond target s

theorem exec_effect_of_next {i : Instr} {s t : State} (h : exec i s = .next t) : ExecEffect i s t := by
  obtain ⟨u, hu, heff⟩ := exec_effect i s
  obtain rfl : u = t := by simpa [hu] using h
  exact heff

/-! ## What each part of the state is after it -/

/-- What no cycle writes (R7, R27, R29, R263): the parameters, the reset mark, SP, SPX and the reserved bits of FLAGS. -/
structure NeverDrivenKept (s t : State) : Prop where
  cfg : t.cfg = s.cfg
  resetDone : t.resetDone = s.resetDone
  sp : t.sp = s.sp
  spx : t.spx = s.spx
  reserved : t.flags &&& reservedFlags = s.flags &&& reservedFlags

theorem State.raise_neverDrivenKept (s : State) (e : Trap) (a : Word) : NeverDrivenKept s (s.raise e a) :=
  ⟨rfl, rfl, rfl, rfl, or_maskHalt_outside s.flags _ (by decide)⟩

/-- R24: a mask that holds HALT leaves no HALT outside it. -/
theorem maskHalt_and_not_or (mask : Word) : maskHalt &&& ~~~(mask ||| maskHalt) = 0#16 := by
  rw [BitVec.not_or, BitVec.and_comm (~~~mask), ← BitVec.and_assoc]
  exact BitVec.zero_and

/-- The memory is kept, or one word at an address that exists is written. -/
def AtMostOneStore (s t : State) : Prop :=
  t.mem = s.mem ∨ ∃ a v, s.inRange a = true ∧ t.mem = s.mem.write a.toNat v

section
variable {i : Instr} {s t : State} (h : ExecEffect i s t)
include h

theorem ExecEffect.neverDrivenKept : NeverDrivenKept s t := by
  cases h with
  | halt => exact ⟨rfl, rfl, rfl, rfl, or_maskHalt_outside s.flags _ (by decide)⟩
  | jump => exact ⟨rfl, rfl, rfl, rfl, rfl⟩
  | commitZN _ r => exact ⟨rfl, rfl, rfl, rfl, flagsZN_outside r s.flags _ (by decide)⟩
  | commitZNCV _ r c v => exact ⟨rfl, rfl, rfl, rfl, flagsZNCV_outside r c v s.flags _ (by decide)⟩
  | compare r c v => exact ⟨rfl, rfl, rfl, rfl, flagsZNCV_outside r c v s.flags _ (by decide)⟩
  | store _ v => exact ⟨rfl, rfl, rfl, rfl, flagsZN_outside v s.flags _ (by decide)⟩
  | trap a => exact s.raise_neverDrivenKept _ a

theorem ExecEffect.atMostOneStore : AtMostOneStore s t := by
  cases h with
  | store a v ha => exact .inr ⟨a, v, ha, rfl⟩
  | halt | jump | commitZN | commitZNCV | compare | trap => exact .inl rfl

/-- R30: no execute step writes IR. -/
theorem ExecEffect.ir_kept : t.ir = s.ir := by cases h <;> rfl

/-- R21: a register that is not the destination is kept. -/
theorem ExecEffect.readReg_kept {r : Reg} (hr : destination i ≠ some r) : t.readReg r = s.readReg r := by
  cases h with
  | commitZN d _ hdest | commitZNCV d _ _ _ hdest =>
    have hne : r ≠ d := fun e => hr (e ▸ hdest)
    simp [State.readReg_commitZN, State.readReg_commitZNCV, hne]
  | halt | jump | compare | store | trap => rfl

/-- R25, R28: the bits of FLAGS kept are all but HALT and the condition flags of the instruction's row. -/
theorem ExecEffect.flagsKeptBut : FlagsKeptBut (condMask i ||| 0x0100#16) s t := by
  unfold FlagsKeptBut
  cases h with
  | halt hi => subst hi; exact or_maskHalt_outside s.flags _ (by decide)
  | jump => rfl
  | commitZN _ r _ hmask => rw [hmask]; exact flagsZN_outside r s.flags _ (by decide)
  | commitZNCV _ r c v _ hmask => rw [hmask]; exact flagsZNCV_outside r c v s.flags _ (by decide)
  | compare r c v hmask => rw [hmask]; exact flagsZNCV_outside r c v s.flags _ (by decide)
  | store _ v _ hmask => rw [hmask]; exact flagsZN_outside v s.flags _ (by decide)
  | trap => exact or_maskHalt_outside s.flags _ (maskHalt_and_not_or (condMask i))

/-- R31: the fault record is kept, or the data trap is taken. -/
theorem ExecEffect.faultRecord_kept_or_trap :
    t.faultRecord = s.faultRecord ∨ ∃ a, s.inRange a = false ∧ t = s.raise .addressOutOfRange a := by
  cases h with
  | trap a ha => exact .inr ⟨a, ha, rfl⟩
  | halt | jump | commitZN | commitZNCV | compare | store => exact .inl rfl

/-- R26: HALT and the fault cause are kept by any instruction but HALT, unless it traps; and HALT and a trap set HALT. -/
theorem ExecEffect.halted_cases :
    (i ≠ .halt ∧ t.halted = s.halted ∧ t.faultCause = s.faultCause)
      ∨ (t.halted = true ∧ (i = .halt ∨ t.faultCause ≠ .none)) := by
  cases h with
  | halt hi => exact .inr ⟨s.halted_setHalt, .inl hi⟩
  | trap a => exact .inr ⟨s.halted_raise _ a, .inr nofun⟩
  | jump _ hi => exact .inl ⟨hi, rfl, rfl⟩
  | commitZN _ _ _ hmask | commitZNCV _ _ _ _ _ hmask | compare _ _ _ hmask | store _ _ _ hmask =>
    have hi : i ≠ .halt := by rintro rfl; exact absurd hmask (by decide)
    exact .inl ⟨hi, by simp, rfl⟩

end

end Sys2Proof.Machine
end

section
/-! What a step can do, and what each part of the state is after it. -/

namespace Sys2Proof

/-- R88: 0xF8 is the one opcode byte of HALT. -/
theorem Op.ofByte_eq_halt_iff (b : Byte) : Op.ofByte b = some .halt ↔ b = 0xF8#8 := by
  revert b; decide

theorem Instr.op_eq_halt_iff (i : Instr) : i.op = .halt ↔ i = .halt := by
  cases i <;> simp [Instr.op]

end Sys2Proof

namespace Sys2Proof.Machine

/-- R110 to R113, R142, R235: everything a step from `s` that answers a next state can lead to. -/
inductive StepEffect (s : State) : State → Prop
  /-- R111 -/
  | idle (hhalt : s.halted = true) : StepEffect s s
  /-- R112: the instruction fetch traps -/
  | fetchTrap (hrun : s.running) (hpc : s.inRange s.pc = false) : StepEffect s (s.raise .addressOutOfRange s.pc)
  /-- R142 -/
  | illegalTrap (hrun : s.running) (hpc : s.inRange s.pc = true)
    (hop : Op.ofByte (opcodeField (s.memRead s.pc)) = none) :
    StepEffect s ((s.afterWords 1).raise .illegalOpcode s.pc)
  /-- R113: the operand-word fetch traps -/
  | operandTrap (hrun : s.running) (hpc : s.inRange s.pc = true) (hnext : s.inRange (s.pc + 1#16) = false) :
    StepEffect s ((s.afterWords 1).raise .addressOutOfRange (s.pc + 1#16))
  /-- R116: the execute step of the instruction fetched -/
  | executed {t : State} (i : Instr) (hrun : s.running) (hpc : s.inRange s.pc = true)
    (hop : Op.ofByte (opcodeField (s.memRead s.pc)) = some i.op) (heff : ExecEffect i (s.afterWords i.words) t) :
    StepEffect s t

theorem words_ofFields (op : Op) (w imm16 : Word) :
    (Instr.ofFields op w imm16).words = if op.twoWords then 2 else 1 := by
  rw [Instr.words, ofFields_op]

theorem step_effect_of_ready {s : State} {op : Op} {imm16 : Word} (hrun : s.running) (hpc : s.inRange s.pc = true)
    (hop : Op.ofByte (opcodeField (s.memRead s.pc)) = some op)
    (hf : s.fetchDecode = .ready (Instr.ofFields op (s.memRead s.pc) imm16)
      (s.afterWords (Instr.ofFields op (s.memRead s.pc) imm16).words)) :
    ∃ t, step s = .next t ∧ StepEffect s t := by
  rw [step_eq, hf]
  obtain ⟨t, ht, heff⟩ := exec_effect (Instr.ofFields op (s.memRead s.pc) imm16) (s.afterWords _)
  exact ⟨t, ht, .executed _ hrun hpc (hop.trans (congrArg some (ofFields_op op _ _).symm)) heff⟩

/-- R110: once `reset` has been called, every step answers a next state, and it is one of those of `StepEffect`. -/
theorem step_effect {s : State} (hreset : s.resetDone = true) : ∃ t, step s = .next t ∧ StepEffect s t := by
  obtain ⟨hno, -⟩ | ⟨-, hhalt, hf⟩ | ⟨hrun, hpc, hf⟩ | ⟨hrun, hpc, hop, hf⟩ | ⟨op, hrun, hpc, hop, htwo, hf⟩
    | ⟨op, hrun, hpc, -, -, hnext, hf⟩ | ⟨op, hrun, hpc, hop, htwo, -, hf⟩ := s.fetchDecode_cases
  · exact absurd (hreset.symm.trans hno) (by decide)
  · exact ⟨s, by rw [step_eq, hf], .idle hhalt⟩
  · exact ⟨_, by rw [step_eq, hf], .fetchTrap hrun hpc⟩
  · exact ⟨_, by rw [step_eq, hf], .illegalTrap hrun hpc hop⟩
  · exact step_effect_of_ready hrun hpc hop (by simpa [words_ofFields, htwo] using hf)
  · exact ⟨_, by rw [step_eq, hf], .operandTrap hrun hpc hnext⟩
  · exact step_effect_of_ready hrun hpc hop (by simpa [words_ofFields, htwo] using hf)

/-- R263: a step that answers a next state comes after a reset. -/
theorem resetDone_of_step_next {s t : State} (h : step s = .next t) : s.resetDone = true := by
  cases hreset : s.resetDone
  · simp [step, runOnce, State.fetchDecode, hreset] at h
  · rfl

theorem step_effect_of_next {s t : State} (h : step s = .next t) : StepEffect s t := by
  obtain ⟨u, hu, heff⟩ := step_effect (resetDone_of_step_next h)
  obtain rfl : u = t := by simpa [hu] using h
  exact heff

/-- The fetches write none of what no cycle writes, so it is enough to look past them. -/
theorem NeverDrivenKept.of_afterWords {s t : State} {n : Nat} (h : NeverDrivenKept (s.afterWords n) t) :
    NeverDrivenKept s t := ⟨h.cfg, h.resetDone, h.sp, h.spx, h.reserved⟩

/-! ## Traps and the fault record -/

theorem State.not_running_of_halted {s : State} (hhalt : s.halted = true) : ¬ s.running := fun hrun =>
  absurd (hhalt.symm.trans hrun.2) (by decide)

/-- R231, R234: the fault record of ADDRESS_OUT_OF_RANGE is true where the address does not exist. -/
theorem State.raise_addressOutOfRange_true {s : State} {a : Word} (ha : s.inRange a = false) :
    (s.raise .addressOutOfRange a).faultRecordTrue :=
  ⟨s.halted_raise _ a, by simpa [State.inRange] using ha⟩

/-- R231, R232: the fault record of ILLEGAL_OPCODE is true after the fetch of an illegal word. -/
theorem State.raise_illegalOpcode_true {s : State} (hpc : s.inRange s.pc = true)
    (hop : Op.ofByte (opcodeField (s.memRead s.pc)) = none) :
    ((s.afterWords 1).raise .illegalOpcode s.pc).faultRecordTrue :=
  ⟨State.halted_raise _ _ _, (s.inRange_iff s.pc).mp hpc, hop, rfl⟩

/-- R233: a recorded trap has halted the block, so a running state whose fault record is true records none. -/
theorem State.running.faultRecord_empty {s : State} (hrun : s.running) (htrue : s.faultRecordTrue) :
    s.faultRecord = (.none, 0x0000#16) := by
  unfold State.faultRecordTrue at htrue
  split at htrue
  case h_1 hcause => exact Prod.ext hcause htrue
  case h_2 => exact absurd hrun (State.not_running_of_halted htrue.1)
  case h_3 => exact absurd hrun (State.not_running_of_halted htrue.1)

theorem State.faultRecordTrue_of_empty {s : State} (h : s.faultRecord = (.none, 0x0000#16)) : s.faultRecordTrue :=
  State.faultRecordTrue_of_noFault (Prod.ext_iff.mp h).1 (Prod.ext_iff.mp h).2

/-! ## What each part of the state is after a step -/

section
variable {s t : State} (h : StepEffect s t)
include h

theorem StepEffect.neverDrivenKept : NeverDrivenKept s t := by
  cases h with
  | idle => exact ⟨rfl, rfl, rfl, rfl, rfl⟩
  | fetchTrap => exact s.raise_neverDrivenKept _ _
  | illegalTrap | operandTrap => exact (State.raise_neverDrivenKept _ _ _).of_afterWords
  | executed _ _ _ _ heff => exact heff.neverDrivenKept.of_afterWords

theorem StepEffect.atMostOneStore : AtMostOneStore s t := by
  cases h with
  | idle | fetchTrap | illegalTrap | operandTrap => exact .inl rfl
  | executed _ _ _ _ heff => exact heff.atMostOneStore

/-- R30, R112: IR is written exactly by an instruction fetch that succeeds. -/
theorem StepEffect.ir_cases :
    ((s.running ∧ s.inRange s.pc = true) ∧ t.ir = s.memRead s.pc)
      ∨ (¬ (s.running ∧ s.inRange s.pc = true) ∧ t.ir = s.ir) := by
  cases h with
  | idle hhalt => exact .inr ⟨fun hf => State.not_running_of_halted hhalt hf.1, rfl⟩
  | fetchTrap _ hpc => exact .inr ⟨fun hf => absurd (hpc.symm.trans hf.2) (by decide), rfl⟩
  | illegalTrap hrun hpc | operandTrap hrun hpc => exact .inl ⟨⟨hrun, hpc⟩, rfl⟩
  | executed _ hrun hpc _ heff => exact .inl ⟨⟨hrun, hpc⟩, heff.ir_kept⟩

/-- R26: where no fault was recorded before, only the HALT instruction and a trap set HALT in a running cycle. -/
theorem StepEffect.halted_iff (hrun : s.running) (hcause : s.faultCause = .none) :
    t.halted = true
      ↔ (s.inRange s.pc = true ∧ opcodeField (s.memRead s.pc) = 0xF8#8) ∨ t.faultCause ≠ .none := by
  cases h with
  | idle hhalt => exact absurd hrun (State.not_running_of_halted hhalt)
  | fetchTrap | illegalTrap | operandTrap => simp [Trap.cause]
  | executed i _ hpc hop heff =>
    have hbyte : opcodeField (s.memRead s.pc) = 0xF8#8 ↔ i = .halt := by
      rw [← Op.ofByte_eq_halt_iff, hop, Option.some_inj, i.op_eq_halt_iff]
    obtain ⟨hne, hhalt, hkept⟩ | ⟨hhalt, hwhy⟩ := heff.halted_cases
    · simp [hbyte, hne, hhalt, hkept, hrun.2, hcause]
    · simpa [hbyte, hpc, hhalt] using hwhy

/-- R231, R233: a true fault record stays true. -/
theorem StepEffect.faultRecordTrue (htrue : s.faultRecordTrue) : t.faultRecordTrue := by
  cases h with
  | idle => exact htrue
  | fetchTrap _ hpc => exact State.raise_addressOutOfRange_true hpc
  | illegalTrap _ hpc hop => exact State.raise_illegalOpcode_true hpc hop
  | operandTrap _ _ hnext => exact State.raise_addressOutOfRange_true (by simpa using hnext)
  | executed _ hrun _ _ heff =>
    obtain hkept | ⟨a, ha, rfl⟩ := heff.faultRecord_kept_or_trap
    · exact State.faultRecordTrue_of_empty (hkept.trans (hrun.faultRecord_empty htrue))
    · exact State.raise_addressOutOfRange_true ha

end

end Sys2Proof.Machine
end

section
/-! The invariant under the host's operations. -/

namespace Sys2Proof.Machine

/-- R54: a store keeps the canonical form and the capacity. -/
theorem AtMostOneStore.mem_wf_within {s t : State} (h : AtMostOneStore s t) (hwf : s.mem.wf)
    (hwithin : s.mem.within s.cfg.memWords) : t.mem.wf ∧ t.mem.within s.cfg.memWords := by
  obtain hmem | ⟨a, v, ha, hmem⟩ := h
  · rw [hmem]; exact ⟨hwf, hwithin⟩
  · rw [hmem]
    exact ⟨Memory.write_wf _ v hwf, Memory.write_within v hwithin ((s.inRange_iff a).mp ha)⟩

theorem StepEffect.inv {s t : State} (h : StepEffect s t) (hs : s.Inv) : t.Inv := by
  obtain ⟨hcfg, hreset, hsp, hspx, hflags⟩ := h.neverDrivenKept
  obtain ⟨hwf, hwithin⟩ := h.atMostOneStore.mem_wf_within hs.memWf hs.memWithin
  exact
    { cfgWf := hcfg ▸ hs.cfgWf
      memWf := hwf
      memWithin := hcfg ▸ hwithin
      flagsReserved := hflags.trans hs.flagsReserved
      spZero := hsp.trans hs.spZero
      spxZero := hspx.trans hs.spxZero
      wasReset := hreset.trans hs.wasReset
      faultTrue := h.faultRecordTrue hs.faultTrue }

theorem step_inv {s : State} (hs : s.Inv) : ∃ t, step s = .next t ∧ t.Inv :=
  (step_effect hs.wasReset).imp fun _ ht => ⟨ht.1, ht.2.inv hs⟩

/-- R260: `reset` needs of the state before it only what it does not write, the parameters and the memory. -/
theorem State.resetOp_inv {s : State} (hcfg : s.cfg.wf) (hwf : s.mem.wf) (hwithin : s.mem.within s.cfg.memWords) :
    s.resetOp.Inv where
  cfgWf := hcfg
  memWf := hwf
  memWithin := hwithin
  flagsReserved := BitVec.zero_and
  spZero := rfl
  spxZero := rfl
  wasReset := rfl
  faultTrue := State.faultRecordTrue_of_noFault rfl rfl

/-- R60: `loadmem` keeps memory within its capacity: it copies nothing, or ends at the capacity at the latest. -/
theorem State.loadmem_within {s : State} (buffer : List Word) (length start : Nat)
    (h : s.mem.within s.cfg.memWords) : (s.loadmem buffer length start).mem.within s.cfg.memWords := by
  rw [State.loadmem_mem]
  have hcount : (s.loadWords buffer length start).length ≤ s.cfg.memWords - start :=
    (List.length_take_le _ _).trans (Nat.min_le_right _ _)
  rcases Nat.le_total start s.cfg.memWords with hstart | hstart
  · exact Memory.writeList_within _ h (by omega)
  · have hnone : s.loadWords buffer length start = [] := List.eq_nil_of_length_eq_zero (by omega)
    rw [hnone]; exact h

theorem State.loadmem_inv {s : State} (buffer : List Word) (length start : Nat) (hs : s.Inv) :
    (s.loadmem buffer length start).Inv where
  cfgWf := hs.cfgWf
  memWf := Memory.writeList_wf _ _ hs.memWf
  memWithin := State.loadmem_within buffer length start hs.memWithin
  flagsReserved := hs.flagsReserved
  spZero := hs.spZero
  spxZero := hs.spxZero
  wasReset := hs.wasReset
  faultTrue := hs.faultTrue

theorem applyHost_inv {s : State} (op : HostOp) (hs : s.Inv) : ∃ t, applyHost op s = .next t ∧ t.Inv := by
  cases op with
  | reset => exact ⟨_, rfl, State.resetOp_inv hs.cfgWf hs.memWf hs.memWithin⟩
  | runOnce => exact step_inv hs
  | loadmem buffer length start => exact ⟨_, rfl, State.loadmem_inv buffer length start hs⟩

theorem runHost_cons_of_next {op : HostOp} {s t : State} (h : applyHost op s = .next t) (rest : List HostOp) :
    runHost (op :: rest) s = runHost rest t := by
  simp only [runHost, h]

theorem runHost_inv (ops : List HostOp) {s : State} (hs : s.Inv) : ∃ t, runHost ops s = .next t ∧ t.Inv := by
  induction ops generalizing s with
  | nil => exact ⟨s, rfl, hs⟩
  | cons op rest ih =>
    obtain ⟨u, hu, hinv⟩ := applyHost_inv op hs
    rw [runHost_cons_of_next hu]
    exact ih hinv

end Sys2Proof.Machine
end

section
/-! The trace record of a cycle (R44). -/

namespace Sys2Proof

/-- R81: the opcode is the high byte. -/
theorem opcodeField_toNat (w : Word) : (opcodeField w).toNat = w.toNat / 256 := by
  have hw := w.isLt
  rw [opcodeField, BitVec.extractLsb'_toNat, Nat.shiftRight_eq_div_pow]
  omega

/-- R81: the params field is the low byte. -/
theorem paramsField_toNat (w : Word) : (paramsField w).toNat = w.toNat % 256 := by
  rw [paramsField, BitVec.extractLsb'_toNat, Nat.shiftRight_zero]

end Sys2Proof

namespace Sys2Proof.Machine

theorem State.traceRecord_isSome_iff (s : State) :
    s.traceRecord.isSome = true ↔ s.running ∧ s.inRange s.pc = true := by
  unfold State.traceRecord State.running
  split
  case isTrue hf => simp [hf]
  case isFalse hf => simpa [and_assoc] using hf

/-- R44: the normative fields of a record are those of the word at PC. -/
theorem State.traceRecord_fields {s : State} {r : TraceRecord} (h : s.traceRecord = some r) :
    r.pcBefore = s.pc ∧ r.fetchedWord = s.memRead s.pc ∧ r.opcode = opcodeField (s.memRead s.pc)
      ∧ r.params = paramsField (s.memRead s.pc) := by
  unfold State.traceRecord at h
  split at h
  case isTrue => cases h; exact ⟨rfl, rfl, rfl, rfl⟩
  case isFalse => cases h

end Sys2Proof.Machine
end

section
/-! The obligations on the state: the invariant (O54, O55, O56), what a step and an instruction write (O36 to O39), the trace
record (O51) and reset (O48). -/

namespace Sys2Proof.Proofs
open Sys2Proof Sys2Proof.Machine Sys2Proof.Claims

/-- Settles O54, by the cases of what a step can do. -/
theorem invIsKeptByEveryStep : Obligations.InvIsKeptByEveryStep := fun _ hs => step_inv hs

/-- Settles O56, by the host's operations: `reset`, a step, `loadmem`. -/
theorem invIsKeptByEveryHostOperation : Obligations.InvIsKeptByEveryHostOperation := fun op _ hs => applyHost_inv op hs

/-- Settles O55: the first `reset` establishes the invariant, and an induction over the operations after it keeps it. -/
theorem invHoldsAfterAnyHostOperations : Obligations.InvHoldsAfterAnyHostOperations := by
  intro cfg m power ops hcfg hwf hwithin
  have hinv : (State.construct cfg m power).resetOp.Inv := State.resetOp_inv hcfg hwf hwithin
  rw [runHost_cons_of_next rfl]
  exact runHost_inv ops hinv

/-- Settles O36, by the cases of what a step can do. -/
theorem onlyHaltAndTrapsHalt : Obligations.OnlyHaltAndTrapsHalt := by
  intro s t hrun hcause hstep
  rw [← s.inRange_iff]
  exact (step_effect_of_next hstep).halted_iff hrun hcause

/-- Settles O37, by the cases of what an execute step can do. -/
theorem flagsWrittenAreThoseOfTheTable : Obligations.FlagsWrittenAreThoseOfTheTable := by
  intro i s
  obtain ⟨t, ht, heff⟩ := exec_effect i s
  refine ⟨t, ht, heff.flagsKeptBut, fun _ hchanged => ?_⟩
  obtain ⟨-, hhalt, -⟩ | ⟨-, hwhy⟩ := heff.halted_cases
  · exact absurd hhalt hchanged
  · exact hwhy

/-- Settles O38, by the cases of what an execute step can do. -/
theorem onlyTheDestinationRegisterIsWritten : Obligations.OnlyTheDestinationRegisterIsWritten := by
  intro i s t hexec
  have heff := exec_effect_of_next hexec
  cases hdest : destination i with
  | none => exact fun r => heff.readReg_kept (by simp [hdest])
  | some d => exact fun r hr => heff.readReg_kept (by simp [hdest, hr.symm])

/-- Settles O39, by the cases of what a step can do. -/
theorem reservedStateIsNeverDriven : Obligations.ReservedStateIsNeverDriven := by
  intro s t hstep
  have hkept := (step_effect_of_next hstep).neverDrivenKept
  exact ⟨hkept.sp, hkept.spx, hkept.reserved⟩

/-- Settles O51: a record is emitted, and IR written, exactly when the instruction fetch succeeds. -/
theorem traceRecordTellsTheFetch : Obligations.TraceRecordTellsTheFetch := by
  intro s t hstep
  have hiff := s.traceRecord_isSome_iff
  rw [← s.inRange_iff]
  refine ⟨hiff, ?_⟩
  obtain ⟨hfetch, hir⟩ | ⟨hfetch, hir⟩ := (step_effect_of_next hstep).ir_cases
  · refine ⟨fun r hr => ?_, fun hnone => by simpa [hnone] using hiff.mpr hfetch⟩
    obtain ⟨hpc, hword, hopcode, hparams⟩ := State.traceRecord_fields hr
    rw [hir, hopcode, hparams]
    exact ⟨hpc, hword, opcodeField_toNat _, paramsField_toNat _⟩
  · have hnone : s.traceRecord = none := by simpa using mt hiff.mp hfetch
    exact ⟨fun r hr => by simp [hnone] at hr, fun _ => hir⟩

/-- Settles O48: each field is the one `reset` writes or keeps, and with IR, memory and parameters replaced by those of
State.reset nothing of the state before is left. -/
theorem resetWritesTheResetValues : Obligations.ResetWritesTheResetValues :=
  ⟨fun s => ⟨s.readReg_resetOp, rfl, rfl, rfl, rfl, rfl, rfl, rfl⟩, fun _ => rfl⟩

end Sys2Proof.Proofs
end

section
/-! What memory reads as after a store and after a run of writes (R54, R60), and the canonical form as data. -/

namespace Sys2Proof.Machine

/-! ## Stores and runs of writes -/

/-- R54, R154, R155: the memory after the store of a cycle, if it makes one. -/
def Memory.store (m : Memory) : Option (Word × Word) → Memory
  | none => m
  | some (a, v) => m.write a.toNat v

@[simp] theorem Memory.store_none (m : Memory) : m.store none = m := rfl

@[simp] theorem Memory.store_some (m : Memory) (a v : Word) : m.store (some (a, v)) = m.write a.toNat v := rfl

/-- R62: the later of two writes at an address is the last one. -/
theorem lastWrite_cons (b : Nat) (v : Word) (log : List Cell) (a : Nat) :
    lastWrite ((b, v) :: log) a = (lastWrite log a).or (if b = a then some v else none) := by
  rw [lastWrite]
  cases lastWrite log a <;> rfl

theorem lastWrite_append (log later : List Cell) (a : Nat) :
    lastWrite (log ++ later) a = (lastWrite later a).or (lastWrite log a) := by
  induction log with
  | nil => simp [lastWrite]
  | cons c log ih => rw [List.cons_append, lastWrite_cons, lastWrite_cons, ih, Option.or_assoc]

/-- The last value at an address of the words put from `start` up is the one at its distance from `start`. -/
theorem lastWrite_cellsFrom (start : Nat) (vs : List Word) (a : Nat) :
    lastWrite (cellsFrom start vs) a = if start ≤ a then vs[a - start]? else none := by
  induction vs generalizing start with
  | nil => simp [cellsFrom, lastWrite]
  | cons v vs ih =>
    rw [cellsFrom, lastWrite_cons, ih]
    rcases Nat.lt_trichotomy a start with hbelow | rfl | habove
    · simp [Nat.not_le.mpr hbelow, Nat.ne_of_gt hbelow, Nat.not_le.mpr (Nat.lt_succ_of_lt hbelow)]
    · simp
    · have hdist : a - start = (a - (start + 1)) + 1 := by omega
      rw [hdist, List.getElem?_cons_succ]
      simp [Nat.succ_le_of_lt habove, Nat.le_of_lt habove, Nat.ne_of_lt habove]

/-- R62: words written one after another read as their log says. -/
theorem Memory.read_writeList (m : Memory) (start : Nat) (vs : List Word) (a : Nat) :
    (m.writeList start vs).read a = (lastWrite (cellsFrom start vs) a).getD (m.read a) := by
  induction vs generalizing m start with
  | nil => rfl
  | cons v vs ih =>
    rw [Memory.writeList, ih, cellsFrom, lastWrite_cons, Option.getD_or, Memory.read_write]
    by_cases hstart : start = a
    · simp [hstart]
    · simp [hstart, Ne.symm hstart]

/-- R60: the words `loadmem` copies are those of the buffer below `length` and below the capacity. -/
theorem State.loadWords_getElem? (s : State) (buffer : List Word) (length start k : Nat) :
    (s.loadWords buffer length start)[k]? = if k < length ∧ k < s.cfg.memWords - start then buffer[k]? else none := by
  simp only [State.loadWords, State.loadCount, List.getElem?_take, Nat.lt_min]

/-! ## The canonical form -/

theorem Memory.read_of_mem {m : Memory} {c : Cell} (hsorted : m.Pairwise fun c d => c.1 < d.1) (hc : c ∈ m) :
    m.read c.1 = c.2 := by
  induction hsorted with
  | nil => cases hc
  | cons hhead _ ih =>
    rw [Memory.read]
    rcases List.mem_cons.mp hc with rfl | hrest
    · exact if_pos rfl
    · rw [if_neg (Nat.ne_of_gt (hhead c hrest)), ih hrest]

theorem Memory.mem_of_read_ne {m : Memory} {a : Nat} (h : m.read a ≠ unlistedWord) : (a, m.read a) ∈ m := by
  induction m with
  | nil => exact absurd rfl h
  | cons c m ih =>
    rw [Memory.read] at h ⊢
    split at h
    case isTrue ha => subst ha; simp
    case isFalse ha => rw [if_neg ha]; exact List.mem_cons_of_mem c (ih h)

/-- A canonical memory lists exactly the words that are not what an unlisted address reads as. -/
theorem Memory.mem_iff_read {m : Memory} (hwf : m.wf) (c : Cell) :
    c ∈ m ↔ m.read c.1 = c.2 ∧ c.2 ≠ unlistedWord := by
  refine ⟨fun hc => ⟨Memory.read_of_mem hwf.1 hc, hwf.2 c hc⟩, fun ⟨hread, hne⟩ => ?_⟩
  have hmem := Memory.mem_of_read_ne (m := m) (a := c.1) (hread ▸ hne)
  rwa [hread] at hmem

/-- Lists of cells with rising addresses are equal when they have the same cells. -/
theorem Memory.eq_of_mem_iff {m n : Memory} (hm : m.Pairwise fun c d => c.1 < d.1)
    (hn : n.Pairwise fun c d => c.1 < d.1) (h : ∀ c, c ∈ m ↔ c ∈ n) : m = n := by
  have : Std.Irrefl fun c d : Cell => c.1 < d.1 := ⟨fun _ => Nat.lt_irrefl _⟩
  have : Std.Antisymm fun c d : Cell => c.1 < d.1 := ⟨fun _ _ hlt hgt => absurd hgt (Nat.lt_asymm hlt)⟩
  exact hm.eq_of_mem_iff hn h

end Sys2Proof.Machine
end

section
/-! The cycle over another memory: what it reads of it, and what it stores (R53, R54, R56). -/

namespace Sys2Proof.Machine

/-- The state with another memory. -/
def State.withMem (s : State) (m : Memory) : State := { s with mem := m }

section
variable (s : State) (m : Memory)

@[simp] theorem State.withMem_pc : (s.withMem m).pc = s.pc := rfl
@[simp] theorem State.withMem_ir : (s.withMem m).ir = s.ir := rfl
@[simp] theorem State.withMem_cfg : (s.withMem m).cfg = s.cfg := rfl
@[simp] theorem State.withMem_resetDone : (s.withMem m).resetDone = s.resetDone := rfl
@[simp] theorem State.halted_withMem : (s.withMem m).halted = s.halted := rfl
@[simp] theorem State.inRange_withMem (a : Word) : (s.withMem m).inRange a = s.inRange a := rfl
@[simp] theorem State.memRead_withMem (a : Word) : (s.withMem m).memRead a = m.read a.toNat := rfl
@[simp] theorem State.evalCond_withMem (c : CondCode) : (s.withMem m).evalCond c = s.evalCond c := rfl
@[simp] theorem State.effectiveAddr_withMem (r : Reg) : (s.withMem m).effectiveAddr r = s.effectiveAddr r := rfl
@[simp] theorem State.advancePc_withMem : (s.withMem m).advancePc = s.advancePc.withMem m := rfl
@[simp] theorem State.raise_withMem (e : Trap) (a : Word) : (s.withMem m).raise e a = (s.raise e a).withMem m := rfl
@[simp] theorem State.commitZN_withMem (d : Reg) (r : Word) :
    (s.withMem m).commitZN d r = (s.commitZN d r).withMem m := rfl

end

/-- How far a cycle has come, with another memory. -/
@[simp] def Fetched.withMem (m : Memory) : Fetched → Fetched
  | .beforeReset => .beforeReset
  | .idle => .idle
  | .trapped t => .trapped (t.withMem m)
  | .ready i t => .ready i (t.withMem m)

theorem State.afterFetch_withMem {s : State} {m : Memory} (hread : m.read s.pc.toNat = s.memRead s.pc) :
    (s.withMem m).afterFetch = s.afterFetch.withMem m := by
  rw [State.afterFetch, State.withMem_pc, State.memRead_withMem, hread]
  rfl

theorem State.fetchOperand_withMem {s : State} {m : Memory} (op : Op)
    (hread : s.inRange s.pc = true → m.read s.pc.toNat = s.memRead s.pc) :
    (s.withMem m).fetchOperand op = (s.fetchOperand op).withMem m := by
  unfold State.fetchOperand
  cases hpc : s.inRange s.pc with
  | false => simp [hpc]
  | true => simp [hpc, hread hpc]

theorem State.decodeIr_withMem {s : State} {m : Memory} (a : Word)
    (hread : ∀ op, Op.ofByte (opcodeField s.ir) = some op → op.twoWords = true → s.inRange s.pc = true →
      m.read s.pc.toNat = s.memRead s.pc) :
    (s.withMem m).decodeIr a = (s.decodeIr a).withMem m := by
  rw [State.decodeIr, State.decodeIr, State.withMem_ir]
  cases hop : Op.ofByte (opcodeField s.ir) with
  | none => rfl
  | some op =>
    cases htwo : op.twoWords with
    | false => simp [htwo]
    | true => simpa [htwo] using State.fetchOperand_withMem op (hread op hop htwo)

/-! ## The state an execute step starts in -/

/-- R112, R113: a cycle that comes to its execute step has fetched the words of the instruction from addresses that
exist, and has written IR and PC. -/
theorem State.fetchDecode_ready {s t : State} {i : Instr} (h : s.fetchDecode = .ready i t) :
    s.running ∧ s.inRange s.pc = true ∧ Op.ofByte (opcodeField (s.memRead s.pc)) = some i.op
      ∧ (i.op.twoWords = true → s.inRange (s.pc + 1#16) = true) ∧ ∃ n, t = s.afterWords n := by
  obtain ⟨-, hf⟩ | ⟨-, -, hf⟩ | ⟨-, -, hf⟩ | ⟨-, -, -, hf⟩ | ⟨op, hrun, hpc, hop, htwo, hf⟩
    | ⟨op, -, -, -, -, -, hf⟩ | ⟨op, hrun, hpc, hop, -, hnext, hf⟩ := s.fetchDecode_cases
  · cases hf.symm.trans h
  · cases hf.symm.trans h
  · cases hf.symm.trans h
  · cases hf.symm.trans h
  · cases hf.symm.trans h
    exact ⟨hrun, hpc, by rw [ofFields_op, hop], by simp [htwo], _, rfl⟩
  · cases hf.symm.trans h
  · cases hf.symm.trans h
    exact ⟨hrun, hpc, by rw [ofFields_op, hop], fun _ => hnext, _, rfl⟩

/-! ## The execute step -/

theorem storeWord_of_made {s : State} {a v b w : Word}
    (h : (if s.inRange b then some (b, w) else none) = some (a, v)) :
    s.inRange a = true ∧ storeWord b w s = .next ((s.memWrite a v).setZN v) := by
  split at h
  case isTrue hb => cases h; exact ⟨hb, if_pos hb⟩
  case isFalse => cases h

/-- R154, R155: an instruction that stores is one of the two STOREs, and writes one word, at an address that exists, and
Z and N. -/
theorem exec_of_storeOf {i : Instr} {s : State} {a v : Word} (h : storeOf i s = some (a, v)) :
    (i.op = .storeIndReg ∨ i.op = .storeIndImm4) ∧ s.inRange a = true
      ∧ exec i s = .next ((s.memWrite a v).setZN v) := by
  cases i with
  | storeIndReg addr src => exact ⟨.inl rfl, storeWord_of_made h⟩
  | storeIndImm4 imm addr => exact ⟨.inr rfl, storeWord_of_made h⟩
  | _ => cases h

theorem storeWord_withMem (a v : Word) (s : State) (m : Memory) :
    ∃ t, storeWord a v s = .next t ∧ storeWord a v (s.withMem m)
      = .next (t.withMem (m.store (if s.inRange a then some (a, v) else none))) := by
  obtain ⟨ha, hstore⟩ | ⟨ha, hstore⟩ := storeWord_cases a v s
  · exact ⟨_, hstore, by rw [ha]; exact if_pos ha⟩
  · exact ⟨_, hstore, by rw [ha]; exact if_neg (ha ▸ Bool.false_ne_true)⟩

theorem execLoadInd_withMem (dst addr : Reg) {s : State} {m : Memory}
    (hread : s.inRange (s.effectiveAddr addr) = true →
      m.read (s.effectiveAddr addr).toNat = s.memRead (s.effectiveAddr addr)) :
    ∃ t, execLoadInd dst addr s = .next t ∧ execLoadInd dst addr (s.withMem m) = .next (t.withMem m) := by
  unfold execLoadInd
  cases ha : s.inRange (s.effectiveAddr addr) with
  | false => simp [ha]
  | true => simp [ha, hread ha]

theorem execAdc_withMem (acc reg : Reg) (s : State) (m : Memory) :
    ∃ t, execAdc acc reg s = .next t ∧ execAdc acc reg (s.withMem m) = .next (t.withMem m) := by
  rw [execAdc, execAdc, State.withMem_cfg]
  split <;> exact ⟨_, rfl, rfl⟩

theorem execJmp_withMem (cond : CondCode) (target : Word) (s : State) (m : Memory) :
    ∃ t, execJmp cond target s = .next t ∧ execJmp cond target (s.withMem m) = .next (t.withMem m) := by
  rw [execJmp, execJmp, State.evalCond_withMem]
  split <;> exact ⟨_, rfl, rfl⟩

/-- R53, R54, R56: an execute step depends on memory only through the word that LOAD ind reads, and changes it only by
the word it stores. -/
theorem exec_withMem (i : Instr) {s : State} {m : Memory}
    (hread : ∀ x, dataAccess i s = some x → x.kind ≠ .dataWrite → s.inRange x.addr = true →
      m.read x.addr.toNat = s.memRead x.addr) :
    ∃ t, exec i s = .next t ∧ exec i (s.withMem m) = .next (t.withMem (m.store (storeOf i s))) := by
  cases i with
  | loadInd dst addr => exact execLoadInd_withMem dst addr (hread _ rfl nofun)
  | storeIndReg addr src => exact storeWord_withMem _ _ s m
  | storeIndImm4 imm addr => exact storeWord_withMem _ _ s m
  | adc acc reg => exact execAdc_withMem acc reg s m
  | jmp cond target => exact execJmp_withMem cond target s m
  | nop | halt | loadImm4 | loadReg | loadImm16 | add | lnot | land | lor | lxor | cmpReg | cmpImm4 | cmpImm16
  | jmpr => exact ⟨_, rfl, rfl⟩

end Sys2Proof.Machine
end

section
/-! The accesses of a cycle and the table of R56. -/

namespace Sys2Proof

/-- R88: the byte that selects an opcode. -/
def Op.byte : Op → Byte
  | .nop => 0xFF#8
  | .halt => 0xF8#8
  | .loadInd => 0x00#8
  | .loadImm4 => 0x01#8
  | .loadReg => 0x02#8
  | .loadImm16 => 0x03#8
  | .storeIndReg => 0x10#8
  | .storeIndImm4 => 0x11#8
  | .add => 0x20#8
  | .adc => 0x21#8
  | .lnot => 0x30#8
  | .land => 0x31#8
  | .lor => 0x32#8
  | .lxor => 0x33#8
  | .cmpReg => 0x40#8
  | .cmpImm4 => 0x41#8
  | .cmpImm16 => 0x42#8
  | .jmpr => 0x50#8
  | .jmp => 0x51#8

/-- R88: an opcode is selected by its byte and by no other. -/
theorem Op.eq_byte_of_ofByte {b : Byte} {op : Op} : Op.ofByte b = some op → b = op.byte := by
  have hall : ∀ b, (Op.ofByte b).all fun op => b == op.byte := by decide
  intro h
  simpa [h] using hall b

end Sys2Proof

namespace Sys2Proof.Machine
open Sys2Proof.Claims

/-! ## The table's columns, by opcode -/

theorem takesOperand_of_ofByte {b : Byte} {op : Op} (h : Op.ofByte b = some op) : takesOperand b = op.twoWords := by
  rw [Op.eq_byte_of_ofByte h]
  cases op <;> rfl

/-- R89: an illegal byte is in no row of the table. -/
theorem not_in_table_of_illegal {b : Byte} :
    Op.ofByte b = none → takesOperand b = false ∧ b ≠ 0x00#8 ∧ b ≠ 0x10#8 ∧ b ≠ 0x11#8 := by
  revert b; decide

/-- R56: no row of the table has both an operand fetch and a data access. -/
theorem dataAddress_of_takesOperand {w : Word} (h : takesOperand (opcodeField w) = true) (s : State) :
    dataAddress w s = none := by
  simp only [takesOperand, Bool.or_eq_true, decide_eq_true_eq] at h
  obtain (h | h) | h := h <;> simp [dataAddress, h]

/-- R56, rows 3: what an instruction made of a word accesses is what the table says of the word. -/
theorem dataAccess_ofFields {w : Word} {op : Op} (h : Op.ofByte (opcodeField w) = some op) (imm16 : Word) (s : State) :
    dataAccess (Instr.ofFields op w imm16) s
      = (dataAddress w s).map fun a => ⟨if opcodeField w = 0x00#8 then .dataRead else .dataWrite, a⟩ := by
  have hbyte := Op.eq_byte_of_ofByte h
  cases op <;> simp [dataAccess, dataAddress, Instr.ofFields, hbyte, Op.byte] <;> rfl

/-! ## The accesses of a cycle -/

theorem madeIfItExists_eq (kind : AccessKind) (a : Word) (s : State) :
    madeIfItExists kind a s = if s.inRange a then [⟨kind, a⟩] else [] := by
  simp [madeIfItExists, State.inRange]

theorem State.accesses_of_ready {s t : State} {i : Instr} (h : s.fetchDecode = .ready i t) :
    s.accesses = ⟨.instructionFetch, s.pc⟩ :: ((if i.op.twoWords then [⟨.operandFetch, s.pc + 1#16⟩] else [])
      ++ (dataAccess i t).toList.filter fun x => t.inRange x.addr) := by
  simp [State.accesses, h]

theorem State.cycleStore_of_ready {s t : State} {i : Instr} (h : s.fetchDecode = .ready i t) :
    s.cycleStore = storeOf i t := by
  simp [State.cycleStore, h]

/-- R111, R263: a cycle entered HALTED or before the first reset makes no access. -/
theorem State.accesses_of_not_running {s : State} (h : ¬ s.running) : s.accesses = [] := by
  obtain ⟨-, hf⟩ | ⟨-, -, hf⟩ | ⟨hrun, -⟩ | ⟨hrun, -⟩ | ⟨_, hrun, -⟩ | ⟨_, hrun, -⟩ | ⟨_, hrun, -⟩ :=
    s.fetchDecode_cases
  · simp [State.accesses, hf]
  · simp [State.accesses, hf]
  all_goals exact absurd hrun h

/-- R55, R56: a cycle that comes to its execute step makes the accesses of the table. -/
theorem State.accesses_eq_table_of_ready {s : State} {op : Op} {imm16 : Word} {n : Nat}
    (hpc : s.inRange s.pc = true) (hop : Op.ofByte (opcodeField (s.memRead s.pc)) = some op)
    (hnext : op.twoWords = true → s.inRange (s.pc + 1#16) = true)
    (hf : s.fetchDecode = .ready (Instr.ofFields op (s.memRead s.pc) imm16) (s.afterWords n)) :
    s.accesses = tableAccesses s := by
  have hdata : dataAddress (s.memRead s.pc) (s.afterWords n) = dataAddress (s.memRead s.pc) s := rfl
  rw [State.accesses_of_ready hf, tableAccesses, if_pos ((s.inRange_iff _).mp hpc), ofFields_op,
    takesOperand_of_ofByte hop, dataAccess_ofFields hop, hdata]
  congr 2
  · cases htwo : op.twoWords
    · rfl
    · simp [madeIfItExists_eq, hnext htwo]
  · cases dataAddress (s.memRead s.pc) s with
    | none => rfl
    | some a => simp [madeIfItExists_eq, List.filter_cons]

/-- R55, R56: a running cycle makes the accesses of the table. -/
theorem State.accesses_of_running {s : State} (hrun : s.running) : s.accesses = tableAccesses s := by
  obtain ⟨hno, -⟩ | ⟨-, hhalt, -⟩ | ⟨-, hpc, hf⟩ | ⟨-, hpc, hop, hf⟩ | ⟨op, -, hpc, hop, htwo, hf⟩
    | ⟨op, -, hpc, hop, htwo, hnext, hf⟩ | ⟨op, -, hpc, hop, -, hnext, hf⟩ := s.fetchDecode_cases
  · exact absurd (hno.symm.trans hrun.1) (by decide)
  · exact absurd hrun (State.not_running_of_halted hhalt)
  · simp [State.accesses, hf, tableAccesses, ← s.inRange_iff, hpc]
  · obtain ⟨htakes, h00, h10, h11⟩ := not_in_table_of_illegal hop
    simp [State.accesses, hf, tableAccesses, ← s.inRange_iff, hpc, htakes, dataAddress, h00, h10, h11]
  · exact State.accesses_eq_table_of_ready hpc hop (by simp [htwo]) hf
  · have htakes := (takesOperand_of_ofByte hop).trans htwo
    simp [State.accesses, hf, tableAccesses, ← s.inRange_iff, hpc, htakes, dataAddress_of_takesOperand htakes,
      madeIfItExists_eq, hnext]
  · exact State.accesses_eq_table_of_ready hpc hop (fun _ => hnext) hf

theorem madeIfItExists_shape (kind : AccessKind) (a : Word) (s : State) :
    (madeIfItExists kind a s).length ≤ 1 ∧ ∀ x ∈ madeIfItExists kind a s, s.inRange x.addr = true := by
  rw [madeIfItExists_eq]
  split
  case isTrue ha => simp [ha]
  case isFalse => simp

/-- R56: a cycle makes the instruction fetch first, if it makes an access, and at most one access after it. -/
theorem State.accesses_shape (s : State) :
    s.accesses = [] ∨ s.inRange s.pc = true ∧ ∃ later : List Access,
      s.accesses = ⟨.instructionFetch, s.pc⟩ :: later ∧ later.length ≤ 1 ∧ ∀ x ∈ later, s.inRange x.addr = true := by
  by_cases hrun : s.running
  case neg => exact .inl (State.accesses_of_not_running hrun)
  rw [State.accesses_of_running hrun, tableAccesses]
  split
  case isFalse => exact .inl rfl
  case isTrue hpc =>
    refine .inr ⟨(s.inRange_iff _).mpr hpc, _, rfl, ?_⟩
    cases htakes : takesOperand (opcodeField (s.memRead s.pc)) with
    | true => simpa [dataAddress_of_takesOperand htakes] using madeIfItExists_shape _ _ s
    | false =>
      cases dataAddress (s.memRead s.pc) s with
      | none => simp
      | some a => simpa using madeIfItExists_shape _ _ s

/-- R54, R56: the data write an execute step makes is that of the word it stores. -/
theorem dataWrite_made_iff (i : Instr) (s : State) (a : Word) :
    (dataAccess i s = some ⟨.dataWrite, a⟩ ∧ s.inRange a = true) ↔ ∃ v, storeOf i s = some (a, v) := by
  cases i with
  | storeIndReg addr src | storeIndImm4 imm addr =>
    simp only [dataAccess, storeOf, Option.some.injEq, Access.mk.injEq, true_and]
    constructor
    · rintro ⟨rfl, ha⟩
      exact ⟨_, if_pos ha⟩
    · rintro ⟨v, hv⟩
      split at hv
      case isTrue ha => cases hv; exact ⟨rfl, ha⟩
      case isFalse => cases hv
  | _ => simp [dataAccess, storeOf]

theorem State.dataWrite_mem_accesses_iff (s : State) (a : Word) :
    ⟨.dataWrite, a⟩ ∈ s.accesses ↔ ∃ v, s.cycleStore = some (a, v) := by
  cases hf : s.fetchDecode with
  | beforeReset | idle => simp [State.accesses, State.cycleStore, hf]
  | trapped t =>
    simp only [State.accesses, State.cycleStore, hf]
    split <;> simp
  | ready i t =>
    rw [State.accesses_of_ready hf, State.cycleStore_of_ready hf, ← dataWrite_made_iff]
    cases i.op.twoWords <;> simp [List.mem_filter]

end Sys2Proof.Machine
end

section
/-! A step, by the words it reads and the word it stores (R53, R54, R56, R62). -/

namespace Sys2Proof.Machine
open Sys2Proof.Claims

/-- R56: the memory holds the words that the cycle from `s` reads. -/
def State.readsFrom (s : State) (m : Memory) : Prop :=
  ∀ x ∈ s.accesses, x.kind ≠ .dataWrite → m.read x.addr.toNat = s.mem.read x.addr.toNat

/-- R112, R113: the instruction fetch and the operand fetch are among the accesses. -/
theorem State.readsFrom.fetches {s : State} {m : Memory} (h : s.readsFrom m) (hrun : s.running)
    (hpc : s.inRange s.pc = true) :
    m.read s.pc.toNat = s.memRead s.pc
      ∧ (takesOperand (opcodeField (s.memRead s.pc)) = true → s.inRange (s.pc + 1#16) = true →
        m.read (s.pc + 1#16).toNat = s.memRead (s.pc + 1#16)) := by
  unfold State.readsFrom at h
  rw [State.accesses_of_running hrun, tableAccesses, if_pos ((s.inRange_iff _).mp hpc)] at h
  refine ⟨h _ List.mem_cons_self nofun, fun htakes hnext => h ⟨.operandFetch, s.pc + 1#16⟩ ?_ nofun⟩
  simp [htakes, madeIfItExists_eq, hnext]

/-- R53, R56: the cycle up to its execute step depends on memory only through the words it fetches. -/
theorem State.fetchDecode_withMem {s : State} {m : Memory} (h : s.readsFrom m) :
    (s.withMem m).fetchDecode = s.fetchDecode.withMem m := by
  unfold State.fetchDecode
  cases hreset : s.resetDone with
  | false => simp [hreset]
  | true =>
    cases hhalt : s.halted with
    | true => simp [hreset, hhalt]
    | false =>
      cases hpc : s.inRange s.pc with
      | false => simp [hreset, hhalt, hpc]
      | true =>
        obtain ⟨hfetch, hoperand⟩ := h.fetches ⟨hreset, hhalt⟩ hpc
        have hdecode := State.decodeIr_withMem (s := s.afterFetch) (m := m) s.pc fun op hop htwo =>
          hoperand ((takesOperand_of_ofByte hop).trans htwo)
        simpa [hreset, hhalt, hpc, State.afterFetch_withMem hfetch] using hdecode

/-- R53, R54, R56: over a memory that holds the words the cycle reads, a step ends in the same state but for memory, and
changes memory only by the word the cycle stores. -/
theorem step_withMem {s t : State} {m : Memory} (h : s.readsFrom m) (hstep : step s = .next t) :
    step (s.withMem m) = .next (t.withMem (m.store s.cycleStore)) := by
  rw [step_eq] at hstep
  rw [step_eq, State.fetchDecode_withMem h]
  cases hf : s.fetchDecode with
  | beforeReset => simp [hf] at hstep
  | idle | trapped u =>
    simp only [hf] at hstep
    cases hstep
    simp [State.cycleStore, hf]
  | ready i u =>
    obtain ⟨-, -, -, -, n, rfl⟩ := State.fetchDecode_ready hf
    simp only [hf] at hstep
    have hread : ∀ x, dataAccess i (s.afterWords n) = some x → x.kind ≠ .dataWrite →
        (s.afterWords n).inRange x.addr = true → m.read x.addr.toNat = s.memRead x.addr := by
      intro x hx hkind hin
      rw [State.inRange_afterWords] at hin
      exact h x (by simp [State.accesses_of_ready hf, hx, hin]) hkind
    obtain ⟨v, hv, hwith⟩ := exec_withMem i hread
    rw [State.cycleStore_of_ready hf]
    cases hv.symm.trans hstep
    exact hwith

/-- R51, R54: a step changes memory only by the word the cycle stores. -/
theorem step_mem {s t : State} (hstep : step s = .next t) : t.mem = s.mem.store s.cycleStore := by
  have hsame : step s = .next (t.withMem (s.mem.store s.cycleStore)) :=
    step_withMem (m := s.mem) (fun _ _ _ => rfl) hstep
  exact congrArg State.mem (Host.Outcome.next.inj (hstep.symm.trans hsame))

/-- R154, R155: a cycle that stores writes one word, at an address that exists, and Z and N, after its fetches; and its
opcode is one of the two STOREs. -/
theorem State.step_of_cycleStore {s : State} {a v : Word} (h : s.cycleStore = some (a, v)) :
    s.inRange a = true ∧ (∃ n, step s = .next (((s.afterWords n).memWrite a v).setZN v))
      ∧ (opcodeField (s.memRead s.pc) = 0x10#8 ∨ opcodeField (s.memRead s.pc) = 0x11#8) := by
  cases hf : s.fetchDecode with
  | beforeReset | idle | trapped => simp [State.cycleStore, hf] at h
  | ready i u =>
    obtain ⟨-, -, hop, -, n, rfl⟩ := State.fetchDecode_ready hf
    rw [State.cycleStore_of_ready hf] at h
    obtain ⟨hstore, ha, hexec⟩ := exec_of_storeOf h
    refine ⟨ha, ⟨n, by rw [step_eq, hf]; exact hexec⟩, ?_⟩
    have hbyte := Op.eq_byte_of_ofByte hop
    exact hstore.imp (fun hi => by rw [hbyte, hi]; rfl) (fun hi => by rw [hbyte, hi]; rfl)

/-- R62: after one host operation every word is the one last written by it, or as before. -/
theorem applyHost_read {op : HostOp} {s t : State} (h : applyHost op s = .next t) (a : Nat) :
    t.mem.read a = (lastWrite (writesOf op s) a).getD (s.mem.read a) := by
  cases op with
  | reset => cases h; rfl
  | loadmem buffer length start => cases h; exact Memory.read_writeList _ _ _ _
  | runOnce =>
    rw [step_mem h, writesOf]
    cases s.cycleStore with
    | none => rfl
    | some x =>
      obtain ⟨b, v⟩ := x
      by_cases hb : a = b.toNat <;> simp [lastWrite, hb, eq_comm (a := b.toNat)]

theorem applyHost_cfg {op : HostOp} {s t : State} (h : applyHost op s = .next t) : t.cfg = s.cfg := by
  cases op with
  | reset => cases h; rfl
  | loadmem => cases h; rfl
  | runOnce => exact (step_effect_of_next h).neverDrivenKept.cfg

/-- A run that goes through does so operation by operation, and its log is that of the first and that of the others. -/
theorem runHost_cons_next {op : HostOp} {ops : List HostOp} {s t : State} (h : runHost (op :: ops) s = .next t) :
    ∃ u, applyHost op s = .next u ∧ runHost ops u = .next t
      ∧ writeLog (op :: ops) s = writesOf op s ++ writeLog ops u := by
  rw [runHost] at h
  split at h
  case h_1 u hu => exact ⟨u, hu, h, by simp only [writeLog, hu]⟩
  case h_2 => cases h
  case h_3 => cases h

end Sys2Proof.Machine
end

section
/-! The obligations on memory (O40 to O47). -/

namespace Sys2Proof.Proofs
open Sys2Proof Sys2Proof.Machine Sys2Proof.Claims

/-- Settles O40, by the laws of the write port, and by the bounds check of a cycle that stores. -/
theorem memWriteChangesOneWord : Obligations.MemWriteChangesOneWord := by
  refine ⟨fun s a v => ⟨?_, fun b hb => ?_, rfl⟩, fun s a v hstore => ?_⟩
  · rw [State.memRead_memWrite, if_pos rfl]
  · rw [State.memWrite_mem, Memory.read_write, if_neg hb]
  · exact (s.inRange_iff a).mp (State.step_of_cycleStore hstore).1

/-- Settles O41: a step changes memory by the store of its cycle alone, `reset` keeps it, and each host operation keeps the
parameters. -/
theorem onlyStoresAndLoadmemWriteMemory : Obligations.OnlyStoresAndLoadmemWriteMemory := by
  refine ⟨fun s t hstep => ⟨fun a => ?_, fun hsome => ?_⟩, State.resetOp_mem, fun _ _ _ => applyHost_cfg⟩
  · rw [step_mem hstep]
    cases s.cycleStore with
    | none => rfl
    | some x => exact Memory.read_write _ _ _ _
  · obtain ⟨x, hx⟩ := Option.isSome_iff_exists.mp hsome
    obtain ⟨-, -, hopcode⟩ := State.step_of_cycleStore (a := x.1) (v := x.2) hx
    exact hopcode

/-- Settles O42, by the last value each address gets from the words that are copied. -/
theorem loadmemCopiesAndTruncates : Obligations.LoadmemCopiesAndTruncates := by
  intro s buffer length start a
  refine ⟨?_, rfl⟩
  rw [State.loadmem_mem, Memory.read_writeList, lastWrite_cellsFrom, State.loadWords_getElem?]
  by_cases hstart : start ≤ a
  · have hbound : a - start < s.cfg.memWords - start ↔ a < s.cfg.memWords := by omega
    simp only [hstart, hbound, if_true, true_and]
    split <;> rfl
  · simp [hstart]

/-- Settles O43, by induction on the operations: the log of the later ones overrides that of the first. -/
theorem memoryHoldsTheLastWrite : Obligations.MemoryHoldsTheLastWrite := by
  intro ops
  induction ops with
  | nil => intro s t a h; cases h; rfl
  | cons op ops ih =>
    intro s t a h
    obtain ⟨u, hfirst, hothers, hlog⟩ := runHost_cons_next h
    rw [ih u t a hothers, applyHost_read hfirst, hlog, lastWrite_append, Option.getD_or]

/-- Settles O44: the state after the store runs on, and its fetch reads the stored word. -/
theorem nextFetchSeesTheStore : Obligations.NextFetchSeesTheStore := by
  intro s t a v hrun hstep hstore hpc
  obtain ⟨ha, ⟨n, hn⟩, -⟩ := State.step_of_cycleStore hstore
  cases hn.symm.trans hstep
  have hrun' : (((s.afterWords n).memWrite a v).setZN v).running := by simpa [State.running] using hrun
  obtain ⟨u, hu, heff⟩ := step_effect hrun'.1
  refine ⟨hrun', u, hu, ?_⟩
  obtain ⟨-, hir⟩ | ⟨hfetch, -⟩ := heff.ir_cases
  · rw [hir, hpc]
    exact (State.memRead_memWrite _ a v a).trans (if_pos rfl)
  · exact absurd ⟨hrun', by rw [hpc]; exact ha⟩ hfetch

/-- Settles O45, by the table for a running cycle, and by the one shape every cycle's accesses have. -/
theorem accessesExistAndComeInOrder : Obligations.AccessesExistAndComeInOrder := by
  intro s
  have hwrites := s.dataWrite_mem_accesses_iff
  obtain hnone | ⟨hpc, later, haccesses, hlength, hin⟩ := s.accesses_shape
  · refine ⟨State.accesses_of_running, State.accesses_of_not_running, ?_, ?_, ?_, ?_, hwrites⟩ <;> simp [hnone]
  · simp only [State.inRange_iff] at hpc hin
    refine ⟨State.accesses_of_running, State.accesses_of_not_running, ?_, ?_, ?_, ?_, hwrites⟩ <;> rw [haccesses]
    · exact List.forall_mem_cons.mpr ⟨hpc, hin⟩
    · exact fun x hx => by simpa using hx.symm
    · simpa using (List.length_filter_le _ later).trans hlength
    · simpa using hlength

/-- Settles O46: both runs store the same word over their own memory. -/
theorem cyclesReadOnlyTheirAccesses : Obligations.CyclesReadOnlyTheirAccesses := by
  intro s t m hstep hreads
  refine ⟨_, step_withMem hreads hstep, rfl, fun a => ?_⟩
  rw [step_mem hstep]
  show (m.store s.cycleStore).read a = _ ∨ (m.store s.cycleStore).read a = _ ∧ _
  cases s.cycleStore with
  | none => exact .inr ⟨rfl, rfl⟩
  | some x =>
    obtain ⟨b, v⟩ := x
    by_cases hb : a = b.toNat <;> simp [hb]

/-- Settles O47: a canonical memory is the sorted list of what it reads as. -/
theorem canonicalMemoriesReadingAlikeAreEqual : Obligations.CanonicalMemoriesReadingAlikeAreEqual := by
  intro m n hm hn hread
  refine Memory.eq_of_mem_iff hm.1 hn.1 fun c => ?_
  rw [Memory.mem_iff_read hm, Memory.mem_iff_read hn, hread]

end Sys2Proof.Proofs
end

section
/-! The fields of an instruction word: taking a word apart, putting it together again, masking it (R81, R87). -/

namespace Sys2Proof

@[simp] theorem regNibble_regOf (n : Nibble) : regNibble (regOf n) = n := rfl

@[simp] theorem regOf_regNibble (r : Reg) : regOf (regNibble r) = r := rfl

/-- R81: a word is its opcode and its params byte. -/
theorem append_fields (w : Word) : (opcodeField w ++ paramsField w : BitVec (8 + 8)) = w :=
  (BitVec.extractLsb'_append_extractLsb'_eq_extractLsb' rfl).trans BitVec.extractLsb'_eq_self

/-- R81: the params byte is its two nibbles. -/
theorem append_nibbles (w : Word) : (highNibble w ++ lowNibble w : BitVec (4 + 4)) = paramsField w :=
  BitVec.extractLsb'_append_extractLsb'_eq_extractLsb' rfl

/-- R81: a word is its opcode and its two nibbles. -/
theorem instrWord_fields (w : Word) : instrWord (opcodeField w) (highNibble w) (lowNibble w) = w := by
  rw [instrWord_eq, append_nibbles, append_fields]

/-- A mask that is put together from fields masks each field. -/
theorem instrWord_and_instrWord (op op' : Byte) (h h' l l' : Nibble) :
    instrWord op h l &&& instrWord op' h' l' = instrWord (op &&& op') (h &&& h') (l &&& l') := by
  show (op ++ h ++ l : BitVec (8 + 4 + 4)) &&& (op' ++ h' ++ l') = _
  rw [BitVec.and_append, BitVec.and_append]; rfl

theorem nibble_and_0xF (n : Nibble) : n &&& 0xF = n := BitVec.and_allOnes

theorem nibble_and_0 (n : Nibble) : n &&& 0 = 0 := BitVec.and_zero

/-- R87: what is left of a word under a mask that keeps the whole opcode. -/
theorem and_mask {w : Word} {op : Byte} (hop : opcodeField w = op) (h l : Nibble) :
    w &&& instrWord 0xFF h l = instrWord op (highNibble w &&& h) (lowNibble w &&& l) := by
  have hall : op &&& 0xFF = op := BitVec.and_allOnes
  calc w &&& instrWord 0xFF h l
      = instrWord op (highNibble w) (lowNibble w) &&& instrWord 0xFF h l := by rw [← hop, instrWord_fields]
    _ = instrWord op (highNibble w &&& h) (lowNibble w &&& l) := by rw [instrWord_and_instrWord, hall]

/-! ## What each mask of R87 leaves of a word -/

section
variable {w : Word} {op : Byte} (hop : opcodeField w = op)
include hop

theorem and_0xFFFF : w &&& 0xFFFF#16 = instrWord op (highNibble w) (lowNibble w) :=
  (and_mask hop 0xF 0xF).trans (by rw [nibble_and_0xF, nibble_and_0xF])

theorem and_0xFFF0 : w &&& 0xFFF0#16 = instrWord op (highNibble w) 0 :=
  (and_mask hop 0xF 0).trans (by rw [nibble_and_0xF, nibble_and_0])

theorem and_0xFF0F : w &&& 0xFF0F#16 = instrWord op 0 (lowNibble w) :=
  (and_mask hop 0 0xF).trans (by rw [nibble_and_0, nibble_and_0xF])

theorem and_0xFF00 : w &&& 0xFF00#16 = instrWord op 0 0 :=
  (and_mask hop 0 0).trans (by rw [nibble_and_0, nibble_and_0])

end

end Sys2Proof
end

section
/-! Decoding and encoding by opcode: what the decoder answers, and the words of an encoding (R80 to R82, R87, R91). -/

namespace Sys2Proof
open Sys2Proof.Claims

/-- R80: the operand word of an instruction, where its opcode takes one. -/
def Op.operandWords (op : Op) (imm16 : Word) : List Word := if op.twoWords then [imm16] else []

/-- R88: the byte of an opcode selects it. -/
@[simp] theorem Op.ofByte_byte (op : Op) : Op.ofByte op.byte = some op := by cases op <;> rfl

/-! ## The decoder -/

/-- R80: a one-word opcode makes its instruction of the first word alone. -/
theorem Instr.ofFields_of_oneWord {op : Op} (h : op.twoWords = false) (w x y : Word) :
    Instr.ofFields op w x = Instr.ofFields op w y := by
  cases op
  case loadImm16 | cmpImm16 | jmp => cases h
  all_goals rfl

section
variable {w : Word} {op : Op}

/-- R89: a word of an illegal opcode is rejected, whatever follows it. -/
theorem decode_of_illegal (hop : Op.ofByte (opcodeField w) = none) (tail : List Word) :
    decode (w :: tail) = .error (.illegalOpcode (opcodeField w)) := by
  simp [decode, hop]

theorem decode_of_oneWord (hop : Op.ofByte (opcodeField w) = some op) (htwo : op.twoWords = false) (tail : List Word) :
    decode (w :: tail) = .ok (Instr.ofFields op w 0#16, tail) := by
  simp [decode, hop, htwo]

theorem decode_of_twoWords (hop : Op.ofByte (opcodeField w) = some op) (htwo : op.twoWords = true) (imm16 : Word)
    (tail : List Word) : decode (w :: imm16 :: tail) = .ok (Instr.ofFields op w imm16, tail) := by
  simp [decode, hop, htwo]

theorem decode_of_twoWords_alone (hop : Op.ofByte (opcodeField w) = some op) (htwo : op.twoWords = true) :
    decode [w] = .error .noOperandWord := by
  simp [decode, hop, htwo]

/-- R80, R88: a word of a legal opcode and its operand word, if it takes one, decode, whatever follows. -/
theorem decode_words (hop : Op.ofByte (opcodeField w) = some op) (imm16 : Word) (rest : List Word) :
    decode (w :: op.operandWords imm16 ++ rest) = .ok (Instr.ofFields op w imm16, rest) := by
  unfold Op.operandWords
  cases htwo : op.twoWords with
  | false => exact Instr.ofFields_of_oneWord htwo w 0#16 imm16 ▸ decode_of_oneWord hop htwo rest
  | true => exact decode_of_twoWords hop htwo imm16 rest

end

/-- R80, R88: everything the decoder accepts. -/
theorem decode_ok_cases {w : Word} {tail rest : List Word} {i : Instr} (h : decode (w :: tail) = .ok (i, rest)) :
    ∃ op imm16, Op.ofByte (opcodeField w) = some op ∧ i = Instr.ofFields op w imm16
      ∧ tail = op.operandWords imm16 ++ rest := by
  unfold Op.operandWords
  cases hop : Op.ofByte (opcodeField w) with
  | none => cases (decode_of_illegal hop tail).symm.trans h
  | some op =>
    cases htwo : op.twoWords with
    | false =>
      cases (decode_of_oneWord hop htwo tail).symm.trans h
      exact ⟨op, 0#16, rfl, rfl, by simp [htwo]⟩
    | true =>
      cases tail with
      | nil => cases (decode_of_twoWords_alone hop htwo).symm.trans h
      | cons imm16 tail =>
        cases (decode_of_twoWords hop htwo imm16 tail).symm.trans h
        exact ⟨op, imm16, rfl, rfl, by simp [htwo]⟩

/-- R89: the illegal-opcode test looks at the opcode alone. -/
theorem decode_eq_illegal_iff (w : Word) (tail : List Word) :
    decode (w :: tail) = .error (.illegalOpcode (opcodeField w)) ↔ Op.ofByte (opcodeField w) = none := by
  cases hop : Op.ofByte (opcodeField w) with
  | none => simp [decode_of_illegal hop]
  | some op =>
    cases htwo : op.twoWords with
    | false => simp [decode_of_oneWord hop htwo]
    | true =>
      cases tail with
      | nil => simp [decode_of_twoWords_alone hop htwo]
      | cons imm16 tail => simp [decode_of_twoWords hop htwo]

/-- R80: decoding reads the first word through its opcode and the fields that the opcode uses. -/
theorem decode_congr {w w' : Word} (hopcode : opcodeField w = opcodeField w')
    (hfields : ∀ op imm16, Op.ofByte (opcodeField w) = some op → Instr.ofFields op w imm16 = Instr.ofFields op w' imm16)
    (tail : List Word) : decode (w :: tail) = decode (w' :: tail) := by
  cases hop : Op.ofByte (opcodeField w) with
  | none => rw [decode_of_illegal hop, decode_of_illegal (hopcode ▸ hop), hopcode]
  | some op =>
    have hop' := hopcode ▸ hop
    cases htwo : op.twoWords with
    | false => rw [decode_of_oneWord hop htwo, decode_of_oneWord hop' htwo, hfields op _ hop]
    | true =>
      cases tail with
      | nil => rw [decode_of_twoWords_alone hop htwo, decode_of_twoWords_alone hop' htwo]
      | cons imm16 tail => rw [decode_of_twoWords hop htwo, decode_of_twoWords hop' htwo, hfields op _ hop]

/-- R89: the bytes of the listed ranges are those that select no opcode. -/
theorem illegalByte_iff (b : Byte) : illegalByte b = true ↔ Op.ofByte b = none := by
  revert b; decide

/-- R88: the 19 opcodes. -/
def Op.all : List Op :=
  [.nop, .halt, .loadInd, .loadImm4, .loadReg, .loadImm16, .storeIndReg, .storeIndImm4, .add, .adc,
    .lnot, .land, .lor, .lxor, .cmpReg, .cmpImm4, .cmpImm16, .jmpr, .jmp]

theorem Op.mem_all (op : Op) : op ∈ Op.all := by cases op <;> decide

/-- R89: the other bytes are those of the 19 opcodes. -/
theorem legal_iff_mem_bytes (b : Byte) : illegalByte b = false ↔ b ∈ Op.all.map Op.byte := by
  rw [← Bool.not_eq_true, illegalByte_iff, List.mem_map]
  constructor
  · intro h
    obtain ⟨op, hop⟩ := Option.ne_none_iff_exists'.mp h
    exact ⟨op, op.mem_all, (Op.eq_byte_of_ofByte hop).symm⟩
  · rintro ⟨op, -, rfl⟩
    simp

/-- R89: of the 256 bytes, all but those of the 19 opcodes are illegal. -/
theorem length_filter_illegalByte :
    ((List.finRange 256).filter fun b => illegalByte (BitVec.ofFin b)).length = 237 := by
  have hlegal : ((List.finRange 256).filter fun b => !illegalByte (BitVec.ofFin b)).Perm
      (Op.all.map fun op => op.byte.toFin) := by
    refine (List.perm_ext_iff_of_nodup ((List.nodup_finRange 256).filter _) (by decide)).mpr fun b => ?_
    simp [legal_iff_mem_bytes, ← BitVec.toFin_inj]
  have hsplit := List.length_eq_length_filter_add (α := Fin (2 ^ 8)) (l := List.finRange 256) fun b =>
    illegalByte (BitVec.ofFin b)
  have hlength : (List.finRange 256 : List (Fin (2 ^ 8))).length = 256 := List.length_finRange
  have hcount : ((List.finRange 256).filter fun b => !illegalByte (BitVec.ofFin b)).length = 19 := hlegal.length_eq
  omega

/-! ## The encoder -/

/-- R81: the instruction word of an encoding. -/
def Instr.firstWord (i : Instr) : Word := (encode i).headD 0#16

/-- R80: the operand word of an instruction; 0 where it has none. -/
def Instr.operandWord (i : Instr) : Word := (encode i).getD 1 0#16

/-- R80, R91: an encoding is the instruction word, then the operand word if the opcode takes one. -/
theorem encode_eq (i : Instr) : encode i = i.firstWord :: i.op.operandWords i.operandWord := by
  cases i <;> rfl

/-- R88: the instruction word has the byte of the instruction's opcode. -/
theorem opcodeField_firstWord (i : Instr) : opcodeField i.firstWord = i.op.byte := by
  cases i
  case jmpr => exact opcodeField_append _ _
  all_goals exact opcodeField_instrWord _ _ _

/-- R85: the params byte holds every offset in range. -/
theorem toInt_ofInt_of_offsetInRange {offset : Int} (h : offsetInRange offset = true) :
    (BitVec.ofInt 8 offset).toInt = offset := by
  simp only [offsetInRange, Bool.and_eq_true, decide_eq_true_eq] at h
  exact BitVec.toInt_ofInt_eq_self (by decide) (by omega) (by omega)

/-- R82: the fields of an encoding are the operands of the instruction. -/
theorem ofFields_encoding {i : Instr} (hwf : i.wellFormed = true) :
    Instr.ofFields i.op i.firstWord i.operandWord = i := by
  cases i
  case jmpr offset =>
    have hparams : paramsField (Instr.jmpr offset).firstWord = BitVec.ofInt 8 offset := paramsField_append _ _
    simp only [Instr.op, Instr.ofFields, hparams, toInt_ofInt_of_offsetInRange hwf]
  all_goals simp [Instr.firstWord, Instr.operandWord, encode, Instr.op, Instr.ofFields]

/-- R85: the params byte is an offset in range. -/
theorem offsetInRange_toInt (p : Byte) : offsetInRange p.toInt = true := by
  have hlow := BitVec.le_toInt p
  have hhigh := BitVec.toInt_lt (x := p)
  simp only [offsetInRange, Bool.and_eq_true, decide_eq_true_eq]
  omega

/-- R82, R85: fields make a well-formed instruction. -/
theorem wellFormed_ofFields (op : Op) (w imm16 : Word) : (Instr.ofFields op w imm16).wellFormed = true := by
  cases op
  case jmpr => exact offsetInRange_toInt _
  all_goals rfl

/-- R87, R91: the instruction word of an instruction made of fields is the word they stand in, with the ignored ones 0. -/
theorem encode_ofFields {op : Op} {w : Word} (hop : opcodeField w = op.byte) (imm16 : Word) :
    encode (Instr.ofFields op w imm16) = (w &&& usedBits op.byte) :: op.operandWords imm16 := by
  cases op
  case nop | halt => exact congrArg (· :: _) (and_0xFF00 hop).symm
  case lnot | jmp => exact congrArg (· :: _) (and_0xFF0F hop).symm
  case loadImm16 | cmpImm16 => exact congrArg (· :: _) (and_0xFFF0 hop).symm
  case jmpr =>
    have hword : (0x50#8 ++ paramsField w : BitVec (8 + 8)) = w &&& 0xFFFF#16 := by
      rw [and_0xFFFF hop, instrWord_eq, append_nibbles]; rfl
    simp only [Instr.ofFields, encode, BitVec.ofInt_toInt, hword]
    rfl
  all_goals exact congrArg (· :: _) (and_0xFFFF hop).symm

/-- R82, R91: decoding the encoding of a well-formed instruction gives it back. -/
theorem decode_encode {i : Instr} (hwf : i.wellFormed = true) (rest : List Word) :
    decode (encode i ++ rest) = .ok (i, rest) := by
  have hop : Op.ofByte (opcodeField i.firstWord) = some i.op := by rw [opcodeField_firstWord, Op.ofByte_byte]
  rw [encode_eq, decode_words hop, ofFields_encoding hwf]

/-- R82: well-formed instructions with the same encoding are the same. -/
theorem encode_injective {i j : Instr} (hi : i.wellFormed = true) (hj : j.wellFormed = true)
    (h : encode i = encode j) : i = j := by
  have hdecode := decode_encode hi []
  rw [h, decode_encode hj] at hdecode
  cases hdecode
  rfl

/-- R87: words that differ in ignored fields alone make the same instruction. -/
theorem ofFields_congr {op : Op} {w w' : Word} (hw : opcodeField w = op.byte) (hw' : opcodeField w' = op.byte)
    (hused : w &&& usedBits op.byte = w' &&& usedBits op.byte) (imm16 : Word) :
    Instr.ofFields op w imm16 = Instr.ofFields op w' imm16 :=
  encode_injective (wellFormed_ofFields op w imm16) (wellFormed_ofFields op w' imm16)
    (by rw [encode_ofFields hw, encode_ofFields hw', hused])

end Sys2Proof
end

section
/-! The obligations on the encoding (O22 to O26). -/

namespace Sys2Proof.Proofs
open Sys2Proof Sys2Proof.Machine Sys2Proof.Claims

/-- Settles O22, by running the decoder on each word. -/
theorem writtenOutWordsDecode : Obligations.WrittenOutWordsDecode := by
  unfold Obligations.WrittenOutWordsDecode
  decide

/-- Settles O23: the decoder finds the opcode of the instruction in its first word, and makes the instruction of the fields. -/
theorem decodeOfEncodeIsTheInstruction : Obligations.DecodeOfEncodeIsTheInstruction :=
  fun _ rest hwf => decode_encode hwf rest

/-- Settles O24: what decodes is made of the fields of its first word, and their encoding is that word under the mask of its
opcode. -/
theorem encodeOfDecodeKeepsTheUsedBits : Obligations.EncodeOfDecodeKeepsTheUsedBits := by
  intro w tail rest i h
  obtain ⟨op, imm16, hop, rfl, rfl⟩ := decode_ok_cases h
  have hbyte := Op.eq_byte_of_ofByte hop
  refine ⟨wellFormed_ofFields op w imm16, ?_⟩
  rw [takesOperand_of_ofByte hop, encode_ofFields hbyte, hbyte, Op.operandWords]
  cases op.twoWords with
  | false => exact ⟨rfl, rfl⟩
  | true => exact ⟨imm16, rfl, rfl⟩

/-- Settles O25: the words select one opcode, and have one encoding under its mask. -/
theorem ignoredFieldsDoNotChangeDecoding : Obligations.IgnoredFieldsDoNotChangeDecoding := by
  intro w w' rest hopcode hused
  refine decode_congr hopcode (fun op imm16 hop => ?_) rest
  have hbyte := Op.eq_byte_of_ofByte hop
  exact ofFields_congr hbyte (hopcode.symm.trans hbyte) (hbyte ▸ hused) imm16

/-- Settles O26: the decoder's test looks at the opcode alone, and the bytes without an opcode are those of the ranges. -/
theorem illegalOpcodesAreTheListedRanges : Obligations.IllegalOpcodesAreTheListedRanges :=
  ⟨fun w rest => (decode_eq_illegal_iff w rest).trans (illegalByte_iff _).symm, length_filter_illegalByte⟩

end Sys2Proof.Proofs
end

section
/-! OVERFLOW and CARRY as arithmetic (R122 to R124): the formulas on bit 15 against the signed and the widened results. -/

namespace Sys2Proof.Machine
open Sys2Proof.Claims

/-- R24: the mask 0x8000 singles out bit 15. -/
theorem decide_and_0x8000_ne_zero (x : Word) : decide (x &&& 0x8000#16 ≠ 0#16) = x.msb := by
  have hmask : x &&& 0x8000#16 = if x.getLsbD 15 then 0x8000#16 else 0#16 := BitVec.and_twoPow x 15
  rw [hmask, BitVec.msb_eq_getLsbD_last]
  cases x.getLsbD 15 <;> rfl

theorem overflowFormula_eq (a b r : Word) : overflowFormula a b r = (a.msb == b.msb && !(r.msb == a.msb)) := by
  rw [overflowFormula, decide_and_0x8000_ne_zero, BitVec.msb_and, BitVec.msb_not, BitVec.msb_xor, BitVec.msb_xor]
  cases a.msb <;> cases b.msb <;> cases r.msb <;> rfl

theorem overflowSigned_eq (a b r : Word) : overflowSigned a b r = (!(a.msb == b.msb) && !(r.msb == a.msb)) := by
  rw [overflowSigned, decide_and_0x8000_ne_zero, BitVec.msb_and, BitVec.msb_xor, BitVec.msb_xor]
  cases a.msb <;> cases b.msb <;> cases r.msb <;> rfl

/-- R122: the formal OVERFLOW formula of a sum is signed overflow. -/
theorem overflowFormula_add_iff (a b : Word) :
    overflowFormula a b (a + b) = true ↔ outsideSigned (a.toInt + b.toInt) := by
  rw [overflowFormula_eq, ← BitVec.saddOverflow_eq, BitVec.saddOverflow, outsideSigned, Bool.or_eq_true, decide_eq_true_eq,
    decide_eq_true_eq]
  omega

/-- R124: the signed-overflow formula of a difference is signed overflow. -/
theorem overflowSigned_sub_iff (a b : Word) :
    overflowSigned a b (a - b) = true ↔ outsideSigned (a.toInt - b.toInt) := by
  have hlib : overflowSigned a b (a - b) = a.ssubOverflow b := by
    rw [overflowSigned_eq, BitVec.ssubOverflow_eq]
    cases a.msb <;> cases b.msb <;> cases (a - b).msb <;> rfl
  rw [hlib, BitVec.ssubOverflow, outsideSigned, Bool.or_eq_true, decide_eq_true_eq, decide_eq_true_eq]
  omega

theorem negativeOf_eq_msb (r : Word) : negativeOf r = r.msb := (BitVec.msb_eq_getLsbD_last r).symm

/-- R201: the test of L is the signed "less", once V is the signed overflow of the difference. -/
theorem negativeOf_ne_overflowSigned_iff (a b : Word) :
    negativeOf (a - b) ≠ overflowSigned a b (a - b) ↔ a.toInt < b.toInt := by
  have hneg : negativeOf (a - b) = true ↔ (a.toInt - b.toInt).bmod 65536 < 0 := by
    rw [negativeOf_eq_msb, BitVec.msb_eq_toInt, decide_eq_true_eq, BitVec.toInt_sub]
  have ha := BitVec.le_toInt a
  have ha' := BitVec.toInt_lt (x := a)
  have hb := BitVec.le_toInt b
  have hb' := BitVec.toInt_lt (x := b)
  rw [ne_eq, Bool.eq_iff_iff, hneg, overflowSigned_sub_iff, outsideSigned, Int.bmod_def]
  split <;> omega

/-- R123: the borrow is the CARRY rule of an addition applied to the widened difference. -/
theorem borrowOf_iff_widened (a b : Word) {k : Nat} (hk : 17 ≤ k) :
    borrowOf a b = true ↔ ((a.toNat : Int) - (b.toNat : Int)) % (2 ^ k : Int) > 0xFFFF := by
  have hwide : (131072 : Int) ≤ 2 ^ k := pow_le_pow_right₀ (a := (2 : Int)) (by decide) hk
  have ha := a.isLt
  have hb := b.isLt
  rw [borrowOf_iff]
  rcases Nat.lt_or_ge a.toNat b.toNat with hlt | hge
  · rw [← Int.add_emod_right, Int.emod_eq_of_lt (by omega) (by omega)]
    omega
  · rw [Int.emod_eq_of_lt (by omega) (by omega)]
    omega

/-- R28: bits on which two new values agree are written alike. -/
theorem writeFlags_and_congr {new new' keep : Word} (h : new &&& keep = new' &&& keep) (mask f : Word) :
    writeFlags mask new f &&& keep = writeFlags mask new' f &&& keep := by
  have hbits : (new &&& mask) &&& keep = (new' &&& mask) &&& keep := by
    rw [BitVec.and_assoc, BitVec.and_comm mask, ← BitVec.and_assoc, h, BitVec.and_assoc, BitVec.and_comm keep,
      ← BitVec.and_assoc]
  rw [writeFlags, writeFlags, BitVec.and_or_distrib_right, BitVec.and_or_distrib_right, hbits]

/-- R24: OVERFLOW is no other bit than bit 2. -/
theorem flagsZNCV_and_not_overflow (r : Word) (c v v' : Bool) (f : Word) :
    flagsZNCV r c v f &&& 0xFFFB#16 = flagsZNCV r c v' f &&& 0xFFFB#16 := by
  have hpack : ∀ z n c v v', packCond z n v c &&& 0xFFFB#16 = packCond z n v' c &&& 0xFFFB#16 := by decide
  exact writeFlags_and_congr (hpack _ _ c v v') _ f

/-- R124 (decision D15): the two formulas differ exactly where bit 15 changes. -/
theorem overflowFormula_ne_overflowSigned_iff (a b r : Word) :
    overflowFormula a b r ≠ overflowSigned a b r ↔ r.getLsbD 15 ≠ a.getLsbD 15 := by
  have hmsb (x : Word) : x.getLsbD 15 = x.msb := (BitVec.msb_eq_getLsbD_last x).symm
  rw [overflowFormula_eq, overflowSigned_eq, hmsb, hmsb]
  cases a.msb <;> cases b.msb <;> cases r.msb <;> decide

/-- R190 to R192: each compare is `compareWords` of its operands. -/
theorem exec_of_compareOperands {i : Instr} {s : State} {op1 op2 : Word} (h : compareOperands i s = some (op1, op2)) :
    exec i s = .next (compareWords op1 op2 s) := by
  cases i with
  | cmpReg acc reg => cases h; rfl
  | cmpImm4 acc imm =>
    cases h
    rw [BitVec.ofNat_toNat]
    rfl
  | cmpImm16 acc imm16 => cases h; rfl
  | _ => cases h

/-- R190 to R192: the operands of a compare are no parameters. -/
theorem compareOperands_cfg (i : Instr) (s : State) (c : Config) :
    compareOperands i { s with cfg := c } = compareOperands i s := by
  cases i <;> rfl

end Sys2Proof.Machine
end

section
/-! How a cycle from a running state goes: what it fetches, what it runs, and PC after it (R110 to R117). -/

namespace Sys2Proof.Machine
open Sys2Proof.Claims

/-! ## The cycle up to its execute step -/

theorem State.fetchDecode_of_running {s : State} (hrun : s.running) :
    s.fetchDecode = if s.inRange s.pc then s.afterFetch.decodeIr s.pc else .trapped (s.raise .addressOutOfRange s.pc) := by
  simp [State.fetchDecode, hrun.1, hrun.2]

/-- R111: a cycle entered while HALTED does nothing. -/
theorem step_of_halted {s : State} (hreset : s.resetDone = true) (hhalt : s.halted = true) : step s = .next s := by
  simp [step_eq, State.fetchDecode, hreset, hhalt]

/-- R112: the instruction fetch traps where PC names no word. -/
theorem step_of_fetch_outOfRange {s : State} (hrun : s.running) (hpc : s.inRange s.pc = false) :
    step s = .next (s.raise .addressOutOfRange s.pc) := by
  simp [step_eq, State.fetchDecode_of_running hrun, hpc]

/-- R88, R113: the opcodes that fetch an operand word are legal, and of two words. -/
theorem ofByte_of_takesOperand {b : Byte} (h : takesOperand b = true) : ∃ op, Op.ofByte b = some op ∧ op.twoWords = true := by
  cases hop : Op.ofByte b with
  | none => exact absurd h (by simp [not_in_table_of_illegal hop])
  | some op => exact ⟨op, rfl, (takesOperand_of_ofByte hop).symm.trans h⟩

/-- R113: the operand fetch traps where PC + 1 names no word. -/
theorem step_of_operand_outOfRange {s : State} (hrun : s.running) (hpc : s.inRange s.pc = true)
    (htakes : takesOperand (opcodeField (s.memRead s.pc)) = true) (hnext : s.inRange (s.pc + 1#16) = false) :
    step s = .next ((s.afterWords 1).raise .addressOutOfRange (s.pc + 1#16)) := by
  obtain ⟨op, hop, htwo⟩ := ofByte_of_takesOperand htakes
  simp [step_eq, State.fetchDecode_of_running hrun, hpc, State.decodeIr, State.fetchOperand, hop, htwo, hnext,
    State.afterFetch_eq]

/-! ## The words at PC -/

theorem State.fetchWindow_of_outOfRange {s : State} (hpc : s.inRange s.pc = false) : s.fetchWindow = [] := by
  simp [State.fetchWindow, hpc]

theorem State.fetchWindow_of_inRange {s : State} (hpc : s.inRange s.pc = true) :
    s.fetchWindow = s.memRead s.pc :: if s.inRange (s.pc + 1#16) then [s.memRead (s.pc + 1#16)] else [] := by
  cases hnext : s.inRange (s.pc + 1#16) <;> simp [State.fetchWindow, hpc, hnext]

/-- R110, R112, R113: where the words at PC decode, the cycle comes to the execute step of their instruction, with IR written and
PC past them. -/
theorem State.fetchDecode_of_decode {s : State} {i : Instr} {rest : List Word} (hrun : s.running)
    (h : decode s.fetchWindow = .ok (i, rest)) : s.fetchDecode = .ready i (s.afterWords i.words) := by
  obtain ⟨hno, -⟩ | ⟨-, hhalt, -⟩ | ⟨-, hpc, -⟩ | ⟨-, hpc, hop, -⟩ | ⟨op, -, hpc, hop, htwo, hf⟩
    | ⟨op, -, hpc, hop, htwo, hnext, -⟩ | ⟨op, -, hpc, hop, htwo, hnext, hf⟩ := s.fetchDecode_cases
  · exact absurd (hno.symm.trans hrun.1) (by decide)
  · exact absurd hrun (State.not_running_of_halted hhalt)
  · rw [State.fetchWindow_of_outOfRange hpc] at h
    cases h
  · rw [State.fetchWindow_of_inRange hpc, decode_of_illegal hop] at h
    cases h
  · rw [State.fetchWindow_of_inRange hpc, decode_of_oneWord hop htwo] at h
    cases h
    rw [hf, words_ofFields, htwo]
    rfl
  · rw [State.fetchWindow_of_inRange hpc, hnext] at h
    cases (decode_of_twoWords_alone hop htwo).symm.trans h
  · rw [State.fetchWindow_of_inRange hpc, hnext] at h
    cases (decode_of_twoWords hop htwo _ []).symm.trans h
    rw [hf, words_ofFields, htwo]
    rfl

/-- R116: the step of a running state is the execute step of the instruction at PC. -/
theorem step_of_decode {s : State} {i : Instr} {rest : List Word} (hrun : s.running)
    (h : decode s.fetchWindow = .ok (i, rest)) : step s = exec i (s.afterWords i.words) := by
  rw [step_eq, State.fetchDecode_of_decode hrun h]

/-! ## PC after the execute step -/

/-- R203, R204: PC after the execute step of an instruction. -/
def pcAfterExec (i : Instr) (s : State) : Word :=
  match i with
  | .jmpr offset => s.pc + sext16 offset
  | .jmp cond target => if s.evalCond cond = some true then target else s.pc
  | .nop | .halt | .loadInd _ _ | .loadImm4 _ _ | .loadReg _ _ | .loadImm16 _ _ | .storeIndReg _ _
  | .storeIndImm4 _ _ | .add _ _ | .adc _ _ | .lnot _ | .land _ _ | .lor _ _ | .lxor _ _ | .cmpReg _ _
  | .cmpImm4 _ _ | .cmpImm16 _ _ => s.pc

/-- R202, R204: JMP writes PC, and nothing else. -/
theorem execJmp_eq (cond : CondCode) (target : Word) (s : State) :
    execJmp cond target s = .next (s.setPc (if s.evalCond cond = some true then target else s.pc)) := by
  unfold execJmp
  split
  case h_1 htaken => rw [if_pos htaken]
  case h_2 hnot => rw [if_neg (by simp [hnot])]; rfl
  case h_3 hundefined => rw [if_neg (by simp [hundefined])]; rfl

theorem storeWord_pc (a v : Word) (s : State) : ∃ t, storeWord a v s = .next t ∧ t.pc = s.pc := by
  obtain ⟨-, hstore⟩ | ⟨-, hstore⟩ := storeWord_cases a v s
  · exact ⟨_, hstore, rfl⟩
  · exact ⟨_, hstore, rfl⟩

theorem execLoadInd_pc (dst addr : Reg) (s : State) : ∃ t, execLoadInd dst addr s = .next t ∧ t.pc = s.pc := by
  by_cases ha : s.inRange (s.effectiveAddr addr) = true
  · exact ⟨_, if_pos ha, rfl⟩
  · exact ⟨_, if_neg ha, rfl⟩

theorem execAdc_pc (acc reg : Reg) (s : State) : ∃ t, execAdc acc reg s = .next t ∧ t.pc = s.pc := by
  unfold execAdc
  split <;> exact ⟨_, rfl, rfl⟩

theorem exec_pc (i : Instr) (s : State) : ∃ t, exec i s = .next t ∧ t.pc = pcAfterExec i s := by
  cases i with
  | loadInd dst addr => exact execLoadInd_pc dst addr s
  | storeIndReg | storeIndImm4 => exact storeWord_pc _ _ s
  | adc acc reg => exact execAdc_pc acc reg s
  | jmp cond target => exact ⟨_, execJmp_eq cond target s, rfl⟩
  | nop | halt | loadImm4 | loadReg | loadImm16 | add | lnot | land | lor | lxor | cmpReg | cmpImm4 | cmpImm16
  | jmpr => exact ⟨_, rfl, rfl⟩

end Sys2Proof.Machine
end

section
/-! What a cycle from a running state commits, or where it traps (R115, R233). -/

namespace Sys2Proof.Machine
open Sys2Proof.Claims

theorem State.faultCause_raise_ne_none (s : State) (e : Trap) (a : Word) : (s.raise e a).faultCause ≠ .none := by
  cases e <;> nofun

/-- R112, R113: an instruction made of fields starts past the words of its opcode. -/
theorem exists_exec_of_ofFields {s t : State} {op : Op} {imm16 : Word} {n : Nat}
    (hop : Op.ofByte (opcodeField (s.memRead s.pc)) = some op) (hn : (if op.twoWords then 2 else 1) = n)
    (hexec : exec (Instr.ofFields op (s.memRead s.pc) imm16) (s.afterWords n) = .next t) :
    ∃ i : Instr, Op.ofByte (opcodeField (s.memRead s.pc)) = some i.op ∧ exec i (s.afterWords i.words) = .next t :=
  ⟨Instr.ofFields op (s.memRead s.pc) imm16, by rw [ofFields_op, hop], by rwa [words_ofFields, hn]⟩

/-- R110 to R113, R142: how the cycle of a running state can end: with a trap at the instruction fetch, with a trap after it and
before the execute step, or with the execute step. -/
theorem step_cases_of_running {s t : State} (hrun : s.running) (hstep : step s = .next t) :
    (s.inRange s.pc = false ∧ t = s.raise .addressOutOfRange s.pc)
      ∨ (s.inRange s.pc = true ∧ ∃ e a, t = (s.afterWords 1).raise e a)
      ∨ (s.inRange s.pc = true ∧ ∃ i : Instr, Op.ofByte (opcodeField (s.memRead s.pc)) = some i.op
        ∧ exec i (s.afterWords i.words) = .next t) := by
  rw [step_eq] at hstep
  obtain ⟨hno, -⟩ | ⟨-, hhalt, -⟩ | ⟨-, hpc, hf⟩ | ⟨-, hpc, -, hf⟩ | ⟨op, -, hpc, hop, htwo, hf⟩
    | ⟨op, -, hpc, -, -, -, hf⟩ | ⟨op, -, hpc, hop, htwo, -, hf⟩ := s.fetchDecode_cases
  · exact absurd (hno.symm.trans hrun.1) (by decide)
  · exact absurd hrun (State.not_running_of_halted hhalt)
  all_goals simp only [hf] at hstep
  · cases hstep
    exact .inl ⟨hpc, rfl⟩
  · cases hstep
    exact .inr (.inl ⟨hpc, _, _, rfl⟩)
  · exact .inr (.inr ⟨hpc, exists_exec_of_ofFields hop (by simp [htwo]) hstep⟩)
  · cases hstep
    exact .inr (.inl ⟨hpc, _, _, rfl⟩)
  · exact .inr (.inr ⟨hpc, exists_exec_of_ofFields hop (by simp [htwo]) hstep⟩)

/-- R234: the instructions that can trap on their data address have one word. -/
theorem exec_faultRecord_of_twoWords {i : Instr} {s t : State} (htwo : i.op.twoWords = true) (h : exec i s = .next t) :
    t.faultRecord = s.faultRecord := by
  cases i with
  | loadImm16 | cmpImm16 => cases h; rfl
  | jmp cond target => cases (execJmp_eq cond target s).symm.trans h; rfl
  | _ => cases htwo

/-- R233: a cycle that records a fault ends in the trap entry, from the state in which its fetches left it. -/
theorem step_of_trapped {s t : State} (hrun : s.running) (hcause : s.faultCause = .none) (hstep : step s = .next t)
    (htrap : t.faultCause ≠ .none) :
    (s.inRange s.pc = false ∧ ∃ e a, TrapEntered e a s t)
      ∨ (s.inRange s.pc = true ∧ ∃ e a, TrapEntered e a (s.afterWords 1) t) := by
  obtain ⟨hpc, rfl⟩ | ⟨hpc, e, a, rfl⟩ | ⟨hpc, i, -, hexec⟩ := step_cases_of_running hrun hstep
  · exact .inl ⟨hpc, _, _, s.raise_entered _ _⟩
  · exact .inr ⟨hpc, e, a, State.raise_entered _ e a⟩
  · have htrapped : t.faultRecord ≠ (s.afterWords i.words).faultRecord := fun hkept =>
      htrap ((congrArg Prod.fst hkept).trans hcause)
    obtain hkept | ⟨a, -, rfl⟩ := (exec_effect_of_next hexec).faultRecord_kept_or_trap
    · exact absurd hkept htrapped
    · cases htwo : i.op.twoWords with
      | true => exact absurd (exec_faultRecord_of_twoWords htwo hexec) htrapped
      | false =>
        have hwords : i.words = 1 := by simp [Instr.words, htwo]
        rw [hwords]
        exact .inr ⟨hpc, _, a, State.raise_entered _ _ a⟩

/-- R115: a cycle that records no fault ends with its execute step. -/
theorem exec_of_step_of_noFault {s t : State} (hrun : s.running) (hstep : step s = .next t) (hnone : t.faultCause = .none) :
    ∃ i : Instr, Op.ofByte (opcodeField (s.memRead s.pc)) = some i.op ∧ ExecEffect i (s.afterWords i.words) t := by
  obtain ⟨-, rfl⟩ | ⟨-, e, a, rfl⟩ | ⟨-, i, hop, hexec⟩ := step_cases_of_running hrun hstep
  · exact absurd hnone (State.faultCause_raise_ne_none _ _ _)
  · exact absurd hnone (State.faultCause_raise_ne_none _ e a)
  · exact ⟨i, hop, exec_effect_of_next hexec⟩

/-- R115: an execute step writes at most one general register. -/
theorem ExecEffect.regsKeptBut {i : Instr} {s t : State} (h : ExecEffect i s t) : ∃ d, RegsKeptBut d s t := by
  cases hdest : destination i with
  | none => exact ⟨0, fun r _ => h.readReg_kept (by simp [hdest])⟩
  | some d => exact ⟨d, fun r hr => h.readReg_kept (by simp [hdest, hr.symm])⟩

/-- R25, R26: an execute step writes condition flags only, or HALT alone, for HALT or a trap. -/
theorem ExecEffect.condFlags_or_halt {i : Instr} {s t : State} (h : ExecEffect i s t) :
    (t.halted = s.halted ∧ FlagsKeptBut 0x000F#16 s t)
      ∨ ((i = .halt ∨ t.faultCause ≠ .none) ∧ t.halted = true ∧ FlagsKeptBut 0x0100#16 s t) := by
  cases h with
  | halt hi => exact .inr ⟨.inl hi, s.halted_setHalt, or_maskHalt_outside s.flags _ (by decide)⟩
  | jump => exact .inl ⟨rfl, rfl⟩
  | commitZN d r => exact .inl ⟨s.halted_commitZN d r, flagsZN_outside r s.flags _ (by decide)⟩
  | commitZNCV d r c v => exact .inl ⟨s.halted_commitZNCV d r c v, flagsZNCV_outside r c v s.flags _ (by decide)⟩
  | compare r c v => exact .inl ⟨s.halted_setZNCV r c v, flagsZNCV_outside r c v s.flags _ (by decide)⟩
  | store a v => exact .inl ⟨(s.memWrite a v).halted_setZN v, flagsZN_outside v s.flags _ (by decide)⟩
  | trap a => exact .inr ⟨.inr nofun, s.halted_raise _ a, or_maskHalt_outside s.flags _ (by decide)⟩

/-- R31: where no fault is recorded after it, an execute step has kept the fault record. -/
theorem ExecEffect.faultRecord_kept {i : Instr} {s t : State} (h : ExecEffect i s t) (hnone : t.faultCause = .none) :
    t.faultRecord = s.faultRecord := by
  obtain hkept | ⟨a, -, rfl⟩ := h.faultRecord_kept_or_trap
  · exact hkept
  · exact absurd hnone (State.faultCause_raise_ne_none _ _ _)

/-- R115: the cycle of a STORE writes the word of its store, and no other. -/
theorem step_memory_of_store {s t : State} {a v : Word} (hstep : step s = .next t) (hstore : s.cycleStore = some (a, v)) :
    t.memRead a = v ∧ MemKeptBut a s t := by
  have hmem := step_mem hstep
  rw [hstore, Memory.store_some] at hmem
  refine ⟨?_, fun b hb => ?_⟩
  · rw [State.memRead, hmem, Memory.read_write, if_pos rfl]
  · rw [hmem, Memory.read_write, if_neg hb]

/-- R115: any other cycle keeps memory. -/
theorem step_memory_of_noStore {s t : State} (hstep : step s = .next t) (hstore : s.cycleStore = none) : MemKept s t := by
  intro a
  rw [step_mem hstep, hstore, Memory.store_none]

end Sys2Proof.Machine
end

section
/-! Words placed at PC (notes/assumptions/8.md). -/

namespace Sys2Proof.Machine

/-- The state that `placeWords` makes where both words have an address. -/
theorem State.placeWords_eq {s : State} (hpc : s.inRange s.pc = true) (hnext : s.inRange (s.pc + 1#16) = true)
    (first second : Word) :
    s.placeWords first second =
      { s with
        mem := (s.mem.write (s.pc + 1#16).toNat second).write s.pc.toNat first
        flags := s.flags &&& ~~~maskHalt
        resetDone := true } := by
  simp only [State.placeWords, hpc, hnext, if_true]
  rfl

/-- The placed words are those the next cycle can fetch. -/
theorem State.fetchWindow_placeWords {s : State} (hpc : s.inRange s.pc = true) (hnext : s.inRange (s.pc + 1#16) = true)
    (first second : Word) : (s.placeWords first second).fetchWindow = [first, second] := by
  have hne : (s.pc + 1#16).toNat ≠ s.pc.toNat := by bv_omega
  rw [State.placeWords_eq hpc hnext]
  rw [State.inRange_iff] at hpc hnext
  simp [State.fetchWindow, State.inRange, State.memRead, hpc, hnext, hne, -BitVec.toNat_add]

/-- R112, R113: the state in which the instruction placed at PC is executed. -/
theorem State.afterWords_placeWords {s : State} (hpc : s.inRange s.pc = true) (hnext : s.inRange (s.pc + 1#16) = true)
    (first second : Word) (n : Nat) :
    (s.placeWords first second).afterWords n =
      { s.placeWords first second with ir := first, pc := s.pc + BitVec.ofNat 16 n } := by
  rw [State.placeWords_eq hpc hnext, State.afterWords]
  simp [State.memRead, State.setIr, State.setPc]

/-- R26: clearing HALT leaves it clear. -/
theorem haltBit_and_not_maskHalt (f : Word) : haltBit (f &&& ~~~maskHalt) = false := by
  rw [haltBit, BitVec.getLsbD_and]
  exact Bool.and_false _

theorem State.running_placeWords (s : State) (first second : Word) : (s.placeWords first second).running :=
  ⟨rfl, haltBit_and_not_maskHalt s.flags⟩

theorem decode_of_decodeTableWord {nbits w : Nat} {i : Instr} (h : decodeTableWord nbits w = some i) :
    ∃ rest, decode [(tableWords nbits w).1, (tableWords nbits w).2] = .ok (i, rest) := by
  unfold decodeTableWord at h
  split at h
  case h_1 j rest hdecode => cases h; exact ⟨rest, hdecode⟩
  case h_2 => cases h

end Sys2Proof.Machine
end

section
/-! The obligations on the cycle (O27 to O29, O31, O32, O35, O52) and on CARRY and OVERFLOW (O12, O16 to O18). -/

namespace Sys2Proof.Proofs
open Sys2Proof Sys2Proof.Machine Sys2Proof.Claims

/-- Settles O12: the formula on bit 15 is the library's signed overflow. -/
theorem addOverflowIsSignedOverflow : Obligations.AddOverflowIsSignedOverflow := by
  intro h l s
  refine ⟨_, rfl, ?_⟩
  rw [← overflowFormula_add_iff, BitVec.add_def, commitSum, State.flagV_commitZNCV]

/-- Settles O16: the borrow against the widened difference, for the operands of any compare. -/
theorem compareCarryIsTheWidenedDifference : Obligations.CompareCarryIsTheWidenedDifference := by
  intro i s op1 op2 k hops hk
  refine ⟨_, exec_of_compareOperands hops, ?_⟩
  rw [compareWords, State.flagC_setZNCV, borrowOf_iff_widened op1 op2 hk]

/-- Settles O17: under `true_signed`, V is signed overflow, so that N corrected by V is the sign of the exact difference. -/
theorem trueSignedCompareOrdersSigned : Obligations.TrueSignedCompareOrdersSigned := by
  intro i s op1 op2 hops hrule
  refine ⟨_, exec_of_compareOperands hops, ?_⟩
  rw [compareWords, State.flagV_setZNCV, State.flagN_setZNCV, State.flagZ_setZNCV, hrule, overflowOfSub]
  exact ⟨overflowSigned_sub_iff op1 op2, negativeOf_ne_overflowSigned_iff op1 op2, (zeroOf_iff _).trans sub_eq_zero⟩

/-- Settles O18: both rules compare the same operands, and write the same FLAGS but for V. -/
theorem compareRulesDifferByBit15 : Obligations.CompareRulesDifferByBit15 := by
  intro i s op1 op2 hops
  refine ⟨_, _, exec_of_compareOperands ((compareOperands_cfg i s _).trans hops),
    exec_of_compareOperands ((compareOperands_cfg i s _).trans hops), ?_,
    flagsZNCV_and_not_overflow _ _ _ _ s.flags⟩
  rw [compareWords, compareWords, State.flagV_setZNCV, State.flagV_setZNCV]
  exact overflowFormula_ne_overflowSigned_iff op1 op2 (op1 - op2)

/-- Settles O27, by the cases of the cycle up to its execute step. -/
theorem stepRunsTheDecodedInstruction : Obligations.StepRunsTheDecodedInstruction :=
  fun _ _ _ hrun hdecode => step_of_decode hrun hdecode

/-- Settles O28: the fetches leave PC past the words of the instruction, and the execute step of a jump alone writes it. -/
theorem pcAdvancesPerInstruction : Obligations.PcAdvancesPerInstruction := by
  intro s i rest hrun hdecode
  obtain ⟨t, ht, hpc⟩ := exec_pc i (s.afterWords i.words)
  refine ⟨t, (step_of_decode hrun hdecode).trans ht, ?_⟩
  rw [hpc]
  cases i <;> rfl

/-- Settles O29: a HALTED cycle gives the same state, and so, by induction, does any number of them. -/
theorem haltedCyclesChangeNothing : Obligations.HaltedCyclesChangeNothing := by
  intro s hreset hhalt
  refine ⟨fun k => ?_, by simp [State.traceRecord, hhalt]⟩
  have hstep : core.step s = .next s := step_of_halted hreset hhalt
  induction k with
  | zero => rfl
  | succ k ih => simpa only [Host.Core.run, hstep] using ih

/-- Settles O31, by trap entry in the state before the fetch. -/
theorem fetchOutOfRangeTraps : Obligations.FetchOutOfRangeTraps := by
  intro s hrun hpc
  exact ⟨_, step_of_fetch_outOfRange hrun (by simpa [State.inRange] using hpc), s.raise_entered _ _⟩

/-- Settles O32, by trap entry in the state after the instruction fetch. -/
theorem operandFetchOutOfRangeTraps : Obligations.OperandFetchOutOfRangeTraps := by
  intro s hrun hpc htakes hnext
  exact ⟨_, step_of_operand_outOfRange hrun ((s.inRange_iff _).mpr hpc) htakes (by simpa [State.inRange] using hnext),
    State.raise_entered _ _ _⟩

/-- Settles O35: without a trap, the cycle ends with its execute step; with one, it ends in the trap entry after its fetches. -/
theorem cyclesCommitWholeOrTrapClean : Obligations.CyclesCommitWholeOrTrapClean := by
  intro s t hrun hcause hstep
  rw [← s.inRange_iff, ← Nat.not_lt, ← s.inRange_iff]
  refine ⟨fun hnone => ?_, fun htrap => ?_⟩
  · obtain ⟨i, hop, heff⟩ := exec_of_step_of_noFault hrun hstep hnone
    refine ⟨heff.regsKeptBut, ?_, ?_, heff.neverDrivenKept.sp, heff.neverDrivenKept.spx,
      congrArg Prod.snd (heff.faultRecord_kept hnone), heff.ir_kept⟩
    · split
      case h_1 hstore => exact step_memory_of_store hstep hstore
      case h_2 hstore => exact step_memory_of_noStore hstep hstore
    · obtain ⟨hhalt, hflags⟩ | ⟨hwhy, hhalt, hflags⟩ := heff.condFlags_or_halt
      · exact .inl ⟨hhalt.trans hrun.2, hflags⟩
      · have hi : i = .halt := hwhy.resolve_right (not_not_intro hnone)
        exact .inr ⟨(Op.ofByte_eq_halt_iff _).mp (by rw [hop, hi]; rfl), hhalt, hflags⟩
  · obtain ⟨hpc, e, a, hhalt, hflags, -, -, hpcKept, hregs, hmem, hsp, hspx, hir, -⟩
      | ⟨hpc, e, a, hhalt, hflags, -, -, hpcKept, hregs, hmem, hsp, hspx, hir, -⟩ :=
      step_of_trapped hrun hcause hstep htrap
    · exact ⟨hhalt, hregs, hmem, hflags, hsp, hspx, by simp [hpc], fun _ => ⟨hir, hpcKept⟩⟩
    · exact ⟨hhalt, hregs, hmem, hflags, hsp, hspx, fun _ => ⟨hir, hpcKept⟩, by simp [hpc]⟩

/-- Settles O52: the words the next cycle can fetch are the two placed, and placing them wrote only where they stand, HALT
and the reset mark. -/
theorem placedWordsRunAtTheNextStep : Obligations.PlacedWordsRunAtTheNextStep := by
  intro s nbits w i hpc hnext hdecode
  rw [← s.inRange_iff] at hpc hnext
  obtain ⟨rest, hdecode⟩ := decode_of_decodeTableWord hdecode
  have hwindow := State.fetchWindow_placeWords hpc hnext (tableWords nbits w).1 (tableWords nbits w).2
  have hstep := step_of_decode (s.running_placeWords _ _) (hwindow ▸ hdecode)
  refine ⟨hstep.trans (congrArg (exec i) (State.afterWords_placeWords hpc hnext _ _ _)), ?_⟩
  rw [State.withFetchWord, State.placeWords_eq hpc hnext]
  refine ⟨rfl, rfl, fun a ha hb => ?_⟩
  rw [Memory.read_write, if_neg ha, Memory.read_write, if_neg hb]

end Sys2Proof.Proofs
end

section
/-! The system instructions and the illegal opcode, each in one fact (R140 to R142). -/

namespace Sys2Proof
open Sys2Proof.Claims

/-- R80, R87: a word with the byte of a one-word opcode decodes with any params byte and any words after it. -/
theorem decode_wordOfParams {op : Op} (htwo : op.twoWords = false) (p : Byte) (rest : List Word) :
    decode (wordOfParams op.byte p :: rest) = .ok (Instr.ofFields op (wordOfParams op.byte p) 0#16, rest) := by
  have hop : Op.ofByte (opcodeField (wordOfParams op.byte p)) = some op := by
    rw [wordOfParams, opcodeField_append, Op.ofByte_byte]
  exact decode_of_oneWord hop htwo rest

end Sys2Proof

namespace Sys2Proof.Machine

/-- R26, R141: what setting HALT does, whole. -/
theorem State.setHalt_effect (s : State) :
    s.setHalt.halted = true ∧ FlagsKeptBut maskHalt s s.setHalt ∧ RegsKept s s.setHalt ∧ MemKept s s.setHalt
      ∧ SpecialsKept s s.setHalt ∧ s.setHalt.pc = s.pc :=
  ⟨s.halted_setHalt, or_maskHalt_outside s.flags _ (by decide), fun _ => rfl, fun _ => rfl,
    ⟨rfl, rfl, rfl, rfl, rfl, rfl, rfl⟩, rfl⟩

/-- R142, R232: an illegal opcode traps in the state after its fetch, with the address of its word. -/
theorem step_of_illegal {s : State} (hrun : s.running) (hpc : s.inRange s.pc = true)
    (hop : Op.ofByte (opcodeField (s.memRead s.pc)) = none) :
    step s = .next ((s.afterWords 1).raise .illegalOpcode s.pc) := by
  simp [step_eq, State.fetchDecode_of_running hrun, hpc, State.decodeIr, hop, State.afterFetch_eq]

end Sys2Proof.Machine
end

section
/-! The obligations on the system instructions (O1, O2, O33). -/

namespace Sys2Proof.Proofs
open Sys2Proof Sys2Proof.Machine Sys2Proof.Claims

/-- Settles O1: the decoder reads the opcode byte alone, and the execute step answers the state it is given. -/
theorem nopChangesNothing : Obligations.NopChangesNothing :=
  ⟨decode_wordOfParams (op := .nop) rfl, fun _ => rfl⟩

/-- Settles O2: the decoder reads the opcode byte alone, and the execute step sets HALT. -/
theorem haltSetsOnlyTheHaltBit : Obligations.HaltSetsOnlyTheHaltBit := by
  refine ⟨decode_wordOfParams (op := .halt) rfl, fun s => ?_⟩
  exact ⟨s.setHalt, rfl, s.setHalt_effect⟩

/-- Settles O33, by trap entry in the state after the instruction fetch: the listed bytes are those that select no opcode. -/
theorem illegalOpcodeTraps : Obligations.IllegalOpcodeTraps := by
  intro s hrun hpc hillegal
  exact ⟨_, step_of_illegal hrun ((s.inRange_iff _).mpr hpc) ((illegalByte_iff _).mp hillegal),
    State.raise_entered _ _ _⟩

end Sys2Proof.Proofs
end

section
/-! Words put together from an opcode and two fields, and what they decode to (R81, R82). -/

namespace Sys2Proof
open Sys2Proof.Claims

@[simp] theorem opcodeField_word (op : Byte) (h l : Nibble) : opcodeField (word op h l) = op :=
  opcodeField_instrWord op h l

@[simp] theorem highNibble_word (op : Byte) (h l : Nibble) : highNibble (word op h l) = h :=
  highNibble_instrWord op h l

@[simp] theorem lowNibble_word (op : Byte) (h l : Nibble) : lowNibble (word op h l) = l :=
  lowNibble_instrWord op h l

/-- R20: the nibble that holds a register's index names the register. -/
@[simp] theorem regOf_nib (r : Reg) : regOf (nib r) = r := Fin.ext (Nat.mod_eq_of_lt r.isLt)

/-- R80, R82: a word with the byte of an opcode, and its operand word, if it takes one, decode to the instruction of that
opcode with the word's fields, whatever follows. -/
theorem decode_word {op : Op} {h l : Nibble} {imm16 : Word} {i : Instr}
    (hi : Instr.ofFields op (word op.byte h l) imm16 = i) (rest : List Word) :
    decode (word op.byte h l :: op.operandWords imm16 ++ rest) = .ok (i, rest) := by
  have hop : Op.ofByte (opcodeField (word op.byte h l)) = some op := by rw [opcodeField_word, Op.ofByte_byte]
  rw [decode_words hop, hi]

end Sys2Proof
end

section
/-! What loads and stores write, and when they trap (R115, R150 to R156). -/

namespace Sys2Proof.Machine
open Sys2Proof.Claims

/-- R83: the zero-extended nibble as the word of the nibble's value. -/
theorem zext16_eq_ofNat (n : Nibble) : zext16 n = BitVec.ofNat 16 n.toNat := (BitVec.ofNat_toNat 16 n).symm

/-- R83, R120: a zero-extended nibble is not negative. -/
@[simp] theorem negativeOf_zext16 (n : Nibble) : negativeOf (zext16 n) = false := by
  rw [negativeOf, zext16, BitVec.getLsbD_setWidth, BitVec.getLsbD_of_ge n 15 (by decide), Bool.and_false]

/-- R120: SetZN leaves Z and N those of the result. -/
theorem State.flagsFromResult_setZN (s : State) (r : Word) : FlagsFromResult r (s.setZN r) :=
  ⟨by rw [State.flagZ_setZN, zeroOf_iff], s.flagN_setZN r⟩

/-- R115, R120: committing a result with Z and N writes the register, Z and N. -/
theorem State.commitZN_writes (s : State) (d : Reg) (r : Word) : WritesRegZN d r s (s.commitZN d r) := by
  obtain ⟨hreg, hregs, hz, hn, hflags, hmem, hspecials, hpc⟩ := s.commitZN_effect d r
  exact ⟨hreg, ⟨hz, hn⟩, hregs, hflags, hmem, hspecials, hpc⟩

/-- R54, R120: writing a word to memory with Z and N from it writes that word, Z and N. -/
theorem State.memWrite_setZN_writes (s : State) (a v : Word) : WritesMemZN a v s ((s.memWrite a v).setZN v) := by
  refine ⟨by rw [State.memRead_setZN, State.memRead_memWrite, if_pos rfl], State.flagsFromResult_setZN _ v,
    fun _ => rfl, flagsZN_outside v s.flags _ (by decide), fun b hb => ?_, ⟨rfl, rfl, rfl, rfl, rfl, rfl, rfl⟩, rfl⟩
  exact (s.mem.read_write a.toNat v b).trans (if_neg hb)

section
variable {s : State}

/-- R150: LOAD ind from an address that exists. -/
theorem execLoadInd_writes {addr : Reg} (ha : (s.readReg addr).toNat < s.cfg.memWords) (dst : Reg) :
    ∃ t, execLoadInd dst addr s = .next t ∧ WritesRegZN dst (s.memRead (s.readReg addr)) s t :=
  ⟨_, if_pos ((s.inRange_iff _).mpr ha), s.commitZN_writes dst _⟩

/-- R150, R234: LOAD ind from an address that does not exist. -/
theorem execLoadInd_traps {addr : Reg} (ha : s.cfg.memWords ≤ (s.readReg addr).toNat) (dst : Reg) :
    ∃ t, execLoadInd dst addr s = .next t ∧ TrapEntered .addressOutOfRange (s.readReg addr) s t :=
  ⟨_, if_neg (mt (s.inRange_iff _).mp (Nat.not_lt.mpr ha)), s.raise_entered _ _⟩

/-- R154, R155: a store at an address that exists. -/
theorem storeWord_writes {a : Word} (ha : a.toNat < s.cfg.memWords) (v : Word) :
    ∃ t, storeWord a v s = .next t ∧ WritesMemZN a v s t :=
  ⟨_, if_pos ((s.inRange_iff a).mpr ha), s.memWrite_setZN_writes a v⟩

/-- R154, R155, R234: a store at an address that does not exist. -/
theorem storeWord_traps {a : Word} (ha : s.cfg.memWords ≤ a.toNat) (v : Word) :
    ∃ t, storeWord a v s = .next t ∧ TrapEntered .addressOutOfRange a s t :=
  ⟨_, if_neg (mt (s.inRange_iff a).mp (Nat.not_lt.mpr ha)), s.raise_entered _ a⟩

end

end Sys2Proof.Machine
end

section
/-! The obligations on the loads and stores (O3 to O8). -/

namespace Sys2Proof.Proofs
open Sys2Proof Sys2Proof.Machine Sys2Proof.Claims

/-- Settles O3, by the two cases of the bounds check on the address. -/
theorem loadIndLoadsOrTraps : Obligations.LoadIndLoadsOrTraps :=
  ⟨fun _ _ => decode_word (op := .loadInd) (imm16 := 0#16) (by simp [Instr.ofFields]),
    fun h _ _ ha => execLoadInd_writes ha h, fun h _ _ ha => execLoadInd_traps ha h⟩

/-- Settles O4: the nibble is committed, and bit 15 of its zero extension is 0. -/
theorem loadImm4LoadsTheNibble : Obligations.LoadImm4LoadsTheNibble := by
  refine ⟨fun h i => decode_word (op := .loadImm4) (imm16 := 0#16) (by simp [Instr.ofFields]), fun h i s => ?_⟩
  rw [← zext16_eq_ofNat]
  exact ⟨_, rfl, s.commitZN_writes h _, by rw [State.flagN_commitZN, negativeOf_zext16]⟩

/-- Settles O5: the register's word is committed. -/
theorem loadRegCopiesTheRegister : Obligations.LoadRegCopiesTheRegister :=
  ⟨fun _ _ => decode_word (op := .loadReg) (imm16 := 0#16) (by simp [Instr.ofFields]),
    fun h _ s => ⟨_, rfl, s.commitZN_writes h _⟩⟩

/-- Settles O6: the decoder takes the second word and does not look at L, and the word is committed. -/
theorem loadImm16LoadsTheSecondWord : Obligations.LoadImm16LoadsTheSecondWord :=
  ⟨fun _ _ _ => decode_word (op := .loadImm16) (by simp [Instr.ofFields]),
    fun h imm16 s => ⟨_, rfl, s.commitZN_writes h imm16⟩⟩

/-- Settles O7, by the two cases of the bounds check of a store. -/
theorem storeIndRegStoresOrTraps : Obligations.StoreIndRegStoresOrTraps :=
  ⟨fun _ _ => decode_word (op := .storeIndReg) (imm16 := 0#16) (by simp [Instr.ofFields]),
    fun _ l s ha => storeWord_writes ha (s.readReg l), fun _ l s ha => storeWord_traps ha (s.readReg l)⟩

/-- Settles O8, by the same two cases, with the zero-extended nibble as the word stored. -/
theorem storeIndImm4StoresOrTraps : Obligations.StoreIndImm4StoresOrTraps := by
  refine ⟨fun _ _ => decode_word (op := .storeIndImm4) (imm16 := 0#16) (by simp [Instr.ofFields]),
    fun i l s ha => ?_, fun i l s ha => storeWord_traps ha (zext16 i)⟩
  rw [← zext16_eq_ofNat]
  exact storeWord_writes ha (zext16 i)

end Sys2Proof.Proofs
end

section
/-! What ADD and ADC write (R170 to R172), and how far the two rules of ADC agree (decision D13). -/

namespace Sys2Proof.Machine
open Sys2Proof.Claims

/-- R115, R125: committing a result with all four condition flags writes the register and those flags. -/
theorem State.commitZNCV_writes (s : State) (d : Reg) (r : Word) (c v : Bool) :
    WritesRegZNCV d r (c = true) (v = true) s (s.commitZNCV d r c v) := by
  obtain ⟨hreg, hregs, hz, hn, hc, hv, hflags, hmem, hspecials, hpc⟩ := s.commitZNCV_effect d r c v
  exact ⟨hreg, ⟨hz, hn⟩, by rw [hc], by rw [hv], hregs, hflags, hmem, hspecials, hpc⟩

theorem overflowFormula_iff (op1 op2 r : Word) : overflowFormula op1 op2 r = true ↔ addOverflow op1 op2 r :=
  decide_eq_true_iff

section
variable (d : Reg) (op1 op2 : Word) (wide : Nat) (s : State)

@[simp] theorem State.flagZ_commitSum : (commitSum d op1 op2 wide s).flagZ = zeroOf (BitVec.ofNat 16 wide) :=
  s.flagZ_commitZNCV d _ _ _

@[simp] theorem State.flagN_commitSum : (commitSum d op1 op2 wide s).flagN = negativeOf (BitVec.ofNat 16 wide) :=
  s.flagN_commitZNCV d _ _ _

@[simp] theorem State.flagC_commitSum : (commitSum d op1 op2 wide s).flagC = carryOfSum wide :=
  s.flagC_commitZNCV d _ _ _

@[simp] theorem State.flagV_commitSum :
    (commitSum d op1 op2 wide s).flagV = overflowFormula op1 op2 (BitVec.ofNat 16 wide) :=
  s.flagV_commitZNCV d _ _ _

theorem State.readReg_commitSum (q : Reg) :
    (commitSum d op1 op2 wide s).readReg q = if q = d then BitVec.ofNat 16 wide else s.readReg q :=
  s.readReg_commitZNCV d _ _ _ q

/-- R122, R170: committing a sum writes it truncated, C from the exact sum and V from the operands it is given. -/
theorem commitSum_writes :
    WritesRegZNCV d (BitVec.ofNat 16 wide) (wide > 0xFFFF) (addOverflow op1 op2 (BitVec.ofNat 16 wide)) s
      (commitSum d op1 op2 wide s) := by
  rw [← carryOfSum_iff, ← overflowFormula_iff]
  exact s.commitZNCV_writes d _ _ _

end

/-! ## ADC under each rule -/

section
variable {s : State} (acc reg : Reg)

/-- R171: under `increment_then_add` the first operand is the accumulator with CARRY already added. -/
theorem exec_adc_of_incrementThenAdd (hrule : s.cfg.adcRule = .incrementThenAdd) :
    exec (.adc acc reg) s =
      let op1 := s.readReg acc + BitVec.ofNat 16 s.flagC.toNat
      .next (commitSum acc op1 (s.readReg reg) (op1.toNat + (s.readReg reg).toNat) s) := by
  have hop1 : BitVec.ofNat 16 ((s.readReg acc).toNat + s.flagC.toNat)
      = s.readReg acc + BitVec.ofNat 16 s.flagC.toNat := by
    rw [BitVec.ofNat_add, BitVec.ofNat_toNat, BitVec.setWidth_eq]
  simp only [exec, execAdc, hrule, hop1]

/-- R171: under `full_sum` the flag computer is given the registers, and CARRY is in the exact sum alone. -/
theorem exec_adc_of_fullSum (hrule : s.cfg.adcRule = .fullSum) :
    exec (.adc acc reg) s = .next (commitSum acc (s.readReg acc) (s.readReg reg)
      ((s.readReg acc).toNat + (s.readReg reg).toNat + s.flagC.toNat) s) := by
  simp only [exec, execAdc, hrule]

end

/-! ## The two sums, and their flags -/

/-- Modulo 2^16 it is no matter when the carry is added. -/
theorem ofNat_incremented_sum (a b : Word) (cin : Nat) :
    BitVec.ofNat 16 ((a + BitVec.ofNat 16 cin).toNat + b.toNat) = BitVec.ofNat 16 (a.toNat + b.toNat + cin) := by
  simp only [BitVec.ofNat_add, BitVec.ofNat_toNat, BitVec.setWidth_eq]
  exact add_right_comm a _ b

/-- The carry is lost from the exact sum where the increment wraps. -/
theorem carryOfSum_incremented_ne_iff (a b : Word) :
    carryOfSum ((a + 1#16).toNat + b.toNat) ≠ carryOfSum (a.toNat + b.toNat + 1) ↔ a = 0xFFFF#16 := by
  rw [ne_eq, Bool.eq_iff_iff, carryOfSum_iff, carryOfSum_iff]
  bv_omega

/-- R122: the formula reads the sign of its first operand only where the signs of the second and the result differ. -/
theorem overflowFormula_ne_iff (a a' b r : Word) :
    overflowFormula a b r ≠ overflowFormula a' b r ↔ a.msb ≠ a'.msb ∧ r.msb ≠ b.msb := by
  rw [overflowFormula_eq, overflowFormula_eq]
  cases a.msb <;> cases a'.msb <;> cases b.msb <;> cases r.msb <;> decide

/-- The increment changes the sign at 0x7FFF and at 0xFFFF, and only at the first has the result another sign than `b`:
there the incremented operand is 0x8000, at 0xFFFF it is 0. -/
theorem overflowFormula_incremented_ne_iff (a b : Word) :
    overflowFormula (a + 1#16) b (a + 1#16 + b) ≠ overflowFormula a b (a + 1#16 + b) ↔ a = 0x7FFF#16 := by
  rw [overflowFormula_ne_iff]
  simp only [BitVec.msb_eq_decide, ne_eq, decide_eq_decide]
  bv_omega

/-- Decision D13: where the sums of the two rules have other flags. -/
theorem adc_flags_differ_iff (a b : Word) (c : Bool) :
    let op1 := a + BitVec.ofNat 16 c.toNat
    let wide1 := op1.toNat + b.toNat
    let wide2 := a.toNat + b.toNat + c.toNat
    (carryOfSum wide1 ≠ carryOfSum wide2
        ∨ overflowFormula op1 b (BitVec.ofNat 16 wide1) ≠ overflowFormula a b (BitVec.ofNat 16 wide2))
      ↔ c = true ∧ (a = 0xFFFF#16 ∨ a = 0x7FFF#16) := by
  intro op1 wide1 wide2
  have hr : BitVec.ofNat 16 wide2 = op1 + b := (ofNat_incremented_sum a b c.toNat).symm
  rw [hr, ← BitVec.add_def]
  cases c with
  | false => simp [op1, wide1, wide2]
  | true =>
    rw [eq_self, true_and]
    exact or_congr (carryOfSum_incremented_ne_iff a b) (overflowFormula_incremented_ne_iff a b)

end Sys2Proof.Machine
end

section
/-! The obligations on ADD and ADC (O9 to O11). -/

namespace Sys2Proof.Proofs
open Sys2Proof Sys2Proof.Machine Sys2Proof.Claims

/-- Settles O9: the sum of the two registers is committed. -/
theorem addWritesTheSumAndFourFlags : Obligations.AddWritesTheSumAndFourFlags :=
  ⟨fun _ _ => decode_word (op := .add) (imm16 := 0#16) (by simp [Instr.ofFields]),
    fun h _ s => ⟨_, rfl, commitSum_writes h _ _ _ s⟩⟩

/-- Settles O10: under each rule a sum is committed, with that rule's operands. -/
theorem adcAddsTheCarryUnderBothRules : Obligations.AdcAddsTheCarryUnderBothRules :=
  ⟨fun _ _ => decode_word (op := .adc) (imm16 := 0#16) (by simp [Instr.ofFields]),
    fun h l s hrule => ⟨_, exec_adc_of_incrementThenAdd h l hrule, commitSum_writes h _ _ _ s⟩,
    fun h l s hrule => ⟨_, exec_adc_of_fullSum h l hrule, commitSum_writes h _ _ _ s⟩⟩

/-- Settles O11: the two results are one word, so that only the flags of the sums can differ. -/
theorem adcRulesDifferOnlyAtTwoAccumulators : Obligations.AdcRulesDifferOnlyAtTwoAccumulators := by
  intro h l s
  refine ⟨_, _, exec_adc_of_incrementThenAdd h l rfl, exec_adc_of_fullSum h l rfl, ?_⟩
  have hr := ofNat_incremented_sum (s.readReg h) (s.readReg l) s.flagC.toNat
  refine ⟨fun q => ?_, ?_, ?_, ?_⟩
  · rw [State.readReg_commitSum, State.readReg_commitSum]
    exact congrArg (ite (q = h) · (s.readReg q)) hr
  · rw [State.flagZ_commitSum, State.flagZ_commitSum]
    exact congrArg zeroOf hr
  · rw [State.flagN_commitSum, State.flagN_commitSum]
    exact congrArg negativeOf hr
  · rw [State.flagC_commitSum, State.flagC_commitSum, State.flagV_commitSum, State.flagV_commitSum]
    exact adc_flags_differ_iff (s.readReg h) (s.readReg l) s.flagC

end Sys2Proof.Proofs
end

section
/-! What NOT writes (R180), and the obligations on NOT, AND, OR and XOR (O13, O14). -/

namespace Sys2Proof.Machine

/-- R180: the complement as the distance to the word of all ones. -/
theorem not_eq_ofNat_sub (x : Word) : ~~~x = BitVec.ofNat 16 (0xFFFF - x.toNat) := by
  have hval : 0xFFFF - x.toNat = (~~~x).toNat := (BitVec.toNat_not (x := x)).symm
  rw [hval, BitVec.ofNat_toNat, BitVec.setWidth_eq]

end Sys2Proof.Machine

namespace Sys2Proof.Proofs
open Sys2Proof Sys2Proof.Machine Sys2Proof.Claims

/-- Settles O13: the decoder does not look at H, and the complement of the register is committed. -/
theorem notComplementsTheLowRegister : Obligations.NotComplementsTheLowRegister := by
  refine ⟨fun _ _ => decode_word (op := .lnot) (imm16 := 0#16) (by simp [Instr.ofFields]), fun l s => ?_⟩
  rw [← not_eq_ofNat_sub]
  exact ⟨_, rfl, s.commitZN_writes l _⟩

/-- Settles O14: each of the three commits its own bitwise result to rH. -/
theorem andOrXorWriteBitwiseResults : Obligations.AndOrXorWriteBitwiseResults := by
  refine ⟨fun h l rest => ⟨?_, ?_, ?_⟩, fun h l s => ⟨?_, ?_, ?_⟩⟩
  · exact decode_word (op := .land) (imm16 := 0#16) (by simp [Instr.ofFields]) rest
  · exact decode_word (op := .lor) (imm16 := 0#16) (by simp [Instr.ofFields]) rest
  · exact decode_word (op := .lxor) (imm16 := 0#16) (by simp [Instr.ofFields]) rest
  all_goals exact ⟨_, rfl, s.commitZN_writes h _⟩

end Sys2Proof.Proofs
end

section
/-! What a compare writes (R123, R124), and the obligation on the three compares (O15). -/

namespace Sys2Proof.Machine
open Sys2Proof.Claims

/-- R124: OVERFLOW of a compare is the statement's, under each SUB_OVERFLOW_RULE. -/
theorem overflowOfSub_iff (rule : SubOverflowRule) (op1 op2 r : Word) :
    overflowOfSub rule op1 op2 r = true ↔ subOverflow rule op1 op2 r := by
  cases rule with
  | formulaAsWritten => exact decide_eq_true_iff
  | trueSigned => exact decide_eq_true_iff

/-- R115, R120: setting the four condition flags leaves Z and N those of the result and writes nothing but FLAGS. -/
theorem State.setZNCV_writes (s : State) (r : Word) (c v : Bool) :
    WritesFlagsOnly r (c = true) (v = true) s (s.setZNCV r c v) :=
  ⟨⟨by rw [State.flagZ_setZNCV, zeroOf_iff], s.flagN_setZNCV r c v⟩, by rw [State.flagC_setZNCV],
    by rw [State.flagV_setZNCV], fun _ => rfl, flagsZNCV_outside r c v s.flags _ (by decide), fun _ => rfl,
    ⟨rfl, rfl, rfl, rfl, rfl, rfl, rfl⟩, rfl⟩

/-- R190 to R192: comparing two words sets the flags of their difference, with the borrow as CARRY. -/
theorem compareWords_compares (op1 op2 : Word) (s : State) : Compares op1 op2 s (compareWords op1 op2 s) := by
  rw [Compares, ← borrowOf_iff, ← overflowOfSub_iff]
  exact s.setZNCV_writes (op1 - op2) _ _

/-- R190 to R192: each compare compares its operands. -/
theorem exec_compares {i : Instr} {s : State} {op1 op2 : Word} (h : compareOperands i s = some (op1, op2)) :
    ∃ t, exec i s = .next t ∧ Compares op1 op2 s t :=
  ⟨_, exec_of_compareOperands h, compareWords_compares op1 op2 s⟩

end Sys2Proof.Machine

namespace Sys2Proof.Proofs
open Sys2Proof Sys2Proof.Machine Sys2Proof.Claims

/-- Settles O15: the three words decode by their opcodes (that of CMP imm16 with any L), and each instruction compares the
operands of its form. -/
theorem comparesWriteOnlyFlags : Obligations.ComparesWriteOnlyFlags :=
  ⟨fun _ _ => decode_word (op := .cmpReg) (imm16 := 0#16) (by simp [Instr.ofFields]),
    fun _ _ => decode_word (op := .cmpImm4) (imm16 := 0#16) (by simp [Instr.ofFields]),
    fun _ _ _ => decode_word (op := .cmpImm16) (by simp [Instr.ofFields]),
    fun _ _ _ => exec_compares rfl, fun _ _ _ => exec_compares rfl, fun _ _ _ => exec_compares rfl⟩

end Sys2Proof.Proofs
end

section
/-! What the jumps write (R203 to R205), and the obligations on JMPR and JMP (O19, O20). -/

namespace Sys2Proof
open Sys2Proof.Claims

/-- R85, R200: the nibble that holds a condition code's number names the code. -/
@[simp] theorem toFin_nib (c : CondCode) : (nib c).toFin = c := regOf_nib c

@[simp] theorem paramsField_wordOfParams (op p : Byte) : paramsField (wordOfParams op p) = p := paramsField_append op p

end Sys2Proof

namespace Sys2Proof.Machine
open Sys2Proof.Claims

/-- R203: adding the sign-extended offset is addition modulo 2^16. -/
theorem toNat_add_sext16 (w : Word) (offset : Int) :
    ((w + sext16 offset).toNat : Int) = ((w.toNat : Int) + offset) % 65536 := by
  rw [sext16, BitVec.toNat_add, BitVec.toNat_ofInt]
  omega

/-- R205: setting PC writes nothing else. -/
theorem State.setPc_frame (s : State) (v : Word) :
    (s.setPc v).flags = s.flags ∧ RegsKept s (s.setPc v) ∧ MemKept s (s.setPc v) ∧ SpecialsKept s (s.setPc v) :=
  ⟨rfl, fun _ => rfl, fun _ => rfl, ⟨rfl, rfl, rfl, rfl, rfl, rfl, rfl⟩⟩

end Sys2Proof.Machine

namespace Sys2Proof.Proofs
open Sys2Proof Sys2Proof.Machine Sys2Proof.Claims

/-- Settles O19: the decoder reads the params byte as a signed number, and only PC is set. -/
theorem jmprMovesPcBySignedOffset : Obligations.JmprMovesPcBySignedOffset := by
  refine ⟨fun p rest => ?_, fun offset s => ⟨_, rfl, toNat_add_sext16 s.pc offset, s.setPc_frame _⟩⟩
  have hdecode := decode_wordOfParams (op := .jmpr) rfl p rest
  rwa [Instr.ofFields, paramsField_wordOfParams] at hdecode

/-- Settles O20: the decoder takes the second word and does not look at H, and only PC is set, to the target exactly
if the condition holds. -/
theorem jmpGoesToItsTargetIfTheConditionHolds : Obligations.JmpGoesToItsTargetIfTheConditionHolds := by
  refine ⟨fun _ _ _ => decode_word (op := .jmp) (by simp [Instr.ofFields]), fun c target s => ?_⟩
  refine ⟨_, execJmp_eq c target s, fun htaken => if_pos htaken, fun hnot => if_neg ?_, fun hundefined => if_neg ?_,
    s.setPc_frame _⟩
  · simp [hnot]
  · simp [hundefined]

end Sys2Proof.Proofs
end

section
/-! The tests the condition codes name (R201), and the obligation on the condition evaluator (O21). -/

namespace Sys2Proof.Machine

/-- R201 (decision D16): in the default COND_TABLE the code 15 − c names the negation of the test of code c. -/
theorem condOf_specDefault_negation {c : CondCode} (hlow : 1 ≤ c.val) (hhigh : c.val ≤ 7) :
    ∃ test negation, condOf CondTable.specDefault c = some test
      ∧ condOf CondTable.specDefault (15 - c) = some negation ∧ ∀ f, condHolds negation f = !condHolds test f := by
  obtain ⟨n, hn⟩ := c
  change 1 ≤ n at hlow
  change n ≤ 7 at hhigh
  interval_cases n
  · exact ⟨.eq, .neq, rfl, rfl, fun _ => rfl⟩
  · exact ⟨.b, .ae, rfl, rfl, fun _ => rfl⟩
  · exact ⟨.be, .a, rfl, rfl, fun _ => (Bool.not_or _ _).symm⟩
  · exact ⟨.l, .ge, rfl, rfl, fun _ => (Bool.not_not _).symm⟩
  · exact ⟨.le, .g, rfl, rfl, fun _ => rfl⟩
  · exact ⟨.n, .p, rfl, rfl, fun _ => rfl⟩
  · exact ⟨.o, .no, rfl, rfl, fun _ => rfl⟩

section
variable {s : State} {c : CondCode}

/-- R200: a code that has a test evaluates it on the flags as they stand. -/
theorem State.evalCond_of_test {t : CondTable} (htable : s.cfg.condTable = t) {test : Cond} (h : condOf t c = some test) :
    s.evalCond c = some (condHolds test s.flags) := by
  rw [State.evalCond, htable, h, Option.map_some]

/-- R201 (decision D16): under the default COND_TABLE the code 15 − c is the negation of code c. -/
theorem State.evalCond_negation (htable : s.cfg.condTable = CondTable.specDefault) (hlow : 1 ≤ c.val)
    (hhigh : c.val ≤ 7) : s.evalCond (15 - c) = (s.evalCond c).map not := by
  obtain ⟨test, negation, htest, hnegation, hnot⟩ := condOf_specDefault_negation hlow hhigh
  rw [State.evalCond_of_test htable htest, State.evalCond_of_test htable hnegation, hnot, Option.map_some]

end

end Sys2Proof.Machine

namespace Sys2Proof.Proofs
open Sys2Proof Sys2Proof.Machine Sys2Proof.Claims

/-- Settles O21: codes 0 and 1 by the entries every table shares, the others by their entries in the default table, where
the codes 1 to 7 have their negations at 14 to 8 and code 15 has no test. -/
theorem conditionCodesTestTheFlags : Obligations.ConditionCodesTestTheFlags := by
  refine ⟨fun s => ⟨State.evalCond_of_test (test := .al) rfl rfl, State.evalCond_of_test (test := .eq) rfl rfl⟩,
    fun s htable => ⟨?b, ?be, ?l, ?le, ?n, ?o, fun _ => State.evalCond_negation htable, ?undefined⟩⟩
  case b => exact State.evalCond_of_test htable (test := .b) rfl
  case be => exact State.evalCond_of_test htable (test := .be) rfl
  case l => exact State.evalCond_of_test htable (test := .l) rfl
  case le => exact State.evalCond_of_test htable (test := .le) rfl
  case n => exact State.evalCond_of_test htable (test := .n) rfl
  case o => exact State.evalCond_of_test htable (test := .o) rfl
  case undefined =>
    rw [State.evalCond, htable]
    rfl

end Sys2Proof.Proofs
end

section
/-! The fault record after a cycle (R231, R235), a cycle before the first reset (R263), and the state after `reset` (R260 to R262). -/

namespace Sys2Proof.Machine
open Sys2Proof.Claims

/-- R263, R35: before the first reset a cycle is refused. -/
theorem step_of_beforeReset {s : State} (hno : s.resetDone = false) : step s = .refused .runBeforeReset := by
  simp [step_eq, State.fetchDecode, hno]

/-- R261: `reset` leaves the block running. -/
theorem State.running_resetOp (s : State) : s.resetOp.running := ⟨rfl, s.halted_resetOp⟩

/-- R261: a host operation other than `reset` leaves a HALTED block HALTED. -/
theorem applyHost_halted_kept {op : HostOp} {s t : State} (h : applyHost op s = .next t) (hhalt : s.halted = true)
    (hop : op ≠ .reset) : t.halted = true := by
  cases op with
  | reset => exact absurd rfl hop
  | runOnce =>
    cases (step_of_halted (resetDone_of_step_next h) hhalt).symm.trans h
    exact hhalt
  | loadmem => cases h; exact hhalt

theorem State.inRange_eq_false_iff (s : State) (a : Word) : s.inRange a = false ↔ s.cfg.memWords ≤ a.toNat := by
  simp [State.inRange]

/-! ## The last check of R235 -/

/-- R234, R235: the fault record after the bounds check of the data address, if there is one. -/
def State.recordAfterDataCheck (s : State) (addr : Option Word) : FaultCause × Word :=
  match addr with
  | some a => if s.cfg.memWords ≤ a.toNat then (.addressOutOfRange, a) else s.faultRecord
  | none => s.faultRecord

section
variable {s : State} {a : Word}

theorem State.recordAfterDataCheck_of_inRange (ha : s.inRange a = true) :
    s.recordAfterDataCheck (some a) = s.faultRecord :=
  if_neg (Nat.not_le.mpr ((s.inRange_iff a).mp ha))

theorem State.recordAfterDataCheck_of_outOfRange (ha : s.inRange a = false) :
    s.recordAfterDataCheck (some a) = (.addressOutOfRange, a) :=
  if_pos ((s.inRange_eq_false_iff a).mp ha)

end

theorem storeWord_faultRecord (a v : Word) (s : State) :
    ∃ t, storeWord a v s = .next t ∧ t.faultRecord = s.recordAfterDataCheck (some a) := by
  obtain ⟨ha, hstore⟩ | ⟨ha, hstore⟩ := storeWord_cases a v s
  · exact ⟨_, hstore, (State.recordAfterDataCheck_of_inRange ha).symm⟩
  · exact ⟨_, hstore, (State.recordAfterDataCheck_of_outOfRange ha).symm⟩

theorem execLoadInd_faultRecord (dst addr : Reg) (s : State) :
    ∃ t, execLoadInd dst addr s = .next t ∧ t.faultRecord = s.recordAfterDataCheck (some (s.effectiveAddr addr)) := by
  cases ha : s.inRange (s.effectiveAddr addr) with
  | true => exact ⟨_, if_pos ha, (State.recordAfterDataCheck_of_inRange ha).symm⟩
  | false => exact ⟨_, if_neg (by simp [ha]), (State.recordAfterDataCheck_of_outOfRange ha).symm⟩

theorem execAdc_faultRecord (acc reg : Reg) (s : State) :
    ∃ t, execAdc acc reg s = .next t ∧ t.faultRecord = s.faultRecord := by
  unfold execAdc
  split <;> exact ⟨_, rfl, rfl⟩

/-- R235: the one check of an execute step is that of its data access. -/
theorem exec_faultRecord (i : Instr) (s : State) :
    ∃ t, exec i s = .next t ∧ t.faultRecord = s.recordAfterDataCheck ((dataAccess i s).map Access.addr) := by
  cases i with
  | loadInd dst addr => exact execLoadInd_faultRecord dst addr s
  | storeIndReg | storeIndImm4 => exact storeWord_faultRecord _ _ s
  | adc acc reg => exact execAdc_faultRecord acc reg s
  | jmp cond target => exact ⟨_, execJmp_eq cond target s, rfl⟩
  | nop | halt | loadImm4 | loadReg | loadImm16 | add | lnot | land | lor | lxor | cmpReg | cmpImm4 | cmpImm16
  | jmpr => exact ⟨_, rfl, rfl⟩

/-- R56, rows 3: the address of the data access of an instruction made of a word is the data address of that word. -/
theorem dataAccess_addr_ofFields {w : Word} {op : Op} (h : Op.ofByte (opcodeField w) = some op) (imm16 : Word)
    (s : State) : (dataAccess (Instr.ofFields op w imm16) s).map Access.addr = dataAddress w s := by
  rw [dataAccess_ofFields h, Option.map_map]
  exact Option.map_id'

/-- R110 to R113: where the checks of the fetches and of the opcode pass, the cycle comes to its execute step. -/
theorem State.fetchDecode_of_checks_pass {s : State} {op : Op} (hrun : s.running) (hpc : s.inRange s.pc = true)
    (hop : Op.ofByte (opcodeField (s.memRead s.pc)) = some op)
    (hnext : op.twoWords = true → s.inRange (s.pc + 1#16) = true) :
    ∃ imm16 n, s.fetchDecode = .ready (Instr.ofFields op (s.memRead s.pc) imm16) (s.afterWords n) := by
  rw [State.fetchDecode_of_running hrun, if_pos hpc]
  cases htwo : op.twoWords with
  | false => exact ⟨0#16, 1, by simp [State.decodeIr, hop, htwo, State.afterFetch_eq]⟩
  | true =>
    refine ⟨s.memRead (s.pc + 1#16), 2, ?_⟩
    simp [State.decodeIr, State.fetchOperand, hop, htwo, hnext htwo, State.afterFetch_advancePc]

/-- R235: where those checks pass, that of the data address decides the fault record. -/
theorem step_faultRecord_of_checks_pass {s : State} {op : Op} (hrun : s.running) (hpc : s.inRange s.pc = true)
    (hop : Op.ofByte (opcodeField (s.memRead s.pc)) = some op)
    (hnext : op.twoWords = true → s.inRange (s.pc + 1#16) = true) :
    ∃ t, step s = .next t ∧ t.faultRecord = s.recordAfterDataCheck (dataAddress (s.memRead s.pc) s) := by
  obtain ⟨imm16, n, hf⟩ := State.fetchDecode_of_checks_pass hrun hpc hop hnext
  obtain ⟨t, hexec, hrecord⟩ := exec_faultRecord (Instr.ofFields op (s.memRead s.pc) imm16) (s.afterWords n)
  rw [dataAccess_addr_ofFields hop] at hrecord
  exact ⟨t, by rw [step_eq, hf]; exact hexec, hrecord⟩

end Sys2Proof.Machine
end

section
/-! The obligations on exceptions (O34) and on reset and the first cycle (O30, O49, O50). -/

namespace Sys2Proof.Proofs
open Sys2Proof Sys2Proof.Machine Sys2Proof.Claims

/-- Settles O34: the cases are the checks, in the order in which the statement and the cycle make them. -/
theorem firstFailingCheckIsRecorded : Obligations.FirstFailingCheckIsRecorded := by
  intro s hrun
  simp only [← s.inRange_eq_false_iff s.pc, ← s.inRange_eq_false_iff (s.pc + 1#16), illegalByte_iff]
  cases hpc : s.inRange s.pc with
  | false => exact ⟨_, step_of_fetch_outOfRange hrun hpc, rfl⟩
  | true =>
    cases hop : Op.ofByte (opcodeField (s.memRead s.pc)) with
    | none => exact ⟨_, step_of_illegal hrun hpc hop, rfl⟩
    | some op =>
      by_cases hmissing : takesOperand (opcodeField (s.memRead s.pc)) = true ∧ s.inRange (s.pc + 1#16) = false
      · exact ⟨_, step_of_operand_outOfRange hrun hpc hmissing.1 hmissing.2, (if_pos hmissing).symm⟩
      · have hnext : op.twoWords = true → s.inRange (s.pc + 1#16) = true := by
          simpa [takesOperand_of_ofByte hop] using hmissing
        obtain ⟨t, hstep, hrecord⟩ := step_faultRecord_of_checks_pass hrun hpc hop hnext
        exact ⟨t, hstep, hrecord.trans (if_neg hmissing).symm⟩

/-- Settles O49: `reset` writes every field but memory and parameters, and no other host operation clears HALT. -/
theorem onlyResetReturnsToRunning : Obligations.OnlyResetReturnsToRunning := by
  refine ⟨fun s => ⟨s.running_resetOp, rfl, rfl⟩, fun s s' hmem hcfg => ?_, fun op s t h hhalt hnot => ?_⟩
  · simp only [State.resetOp, hmem, hcfg]
  · by_contra hop
    exact absurd (hnot.symm.trans (applyHost_halted_kept h hhalt hop)) (by decide)

/-- Settles O30: construction leaves the reset mark clear, and without it a cycle is refused. -/
theorem runBeforeResetIsRefused : Obligations.RunBeforeResetIsRefused :=
  ⟨fun _ => step_of_beforeReset, fun _ _ _ => step_of_beforeReset rfl⟩

/-- Settles O50: after `reset` PC is 0x0100, and where that address exists the step's instruction fetch writes IR. -/
theorem firstCycleFetchesAtTheEntryPoint : Obligations.FirstCycleFetchesAtTheEntryPoint := by
  refine fun s => ⟨s.running_resetOp, fun hentry => ?_⟩
  have hpc : s.resetOp.inRange s.resetOp.pc = true := (State.inRange_iff _ _).mpr hentry
  obtain ⟨t, hstep, heff⟩ := step_effect (s := s.resetOp) rfl
  obtain ⟨-, hir⟩ | ⟨hno, -⟩ := heff.ir_cases
  · exact ⟨t, hstep, hir⟩
  · exact absurd ⟨s.running_resetOp, hpc⟩ hno

end Sys2Proof.Proofs
end
